-- ==== Sys2Proof/Word.lean ====
section
/-! DEFINITION. The widths of the machine's values (spec/10_state.md, R20). -/

namespace Sys2Proof

/-- 8 bits: a V register, a timer, a byte of memory or of the display (R21, R30, R32, R33). -/
abbrev Byte := BitVec 8

/-- 16 bits: `I`, `PC`, a return address, an instruction word (R23, R24, R26, R90). -/
abbrev Word := BitVec 16

/-- A register number, the X or Y nibble of an instruction word (R21, R91). -/
abbrev RegIdx := BitVec 4

/-- A 12-bit address immediate NNN (R91, R93). -/
abbrev Addr12 := BitVec 12

/-- The number of the flags register `VF` (R21, R22). -/
def regF : RegIdx := 15

end Sys2Proof
end

