-- ==== Sys2Proof/Syntax.lean ====
section
/-! DEFINITION. The 34 instructions, one constructor per row of the opcode map (spec/30_encoding.md, R96). -/

namespace Sys2Proof

/-- An instruction with its operand fields X, Y, N, NN, NNN (R91, R96). The order is the opcode map's. -/
inductive Instr where
  /-- `00E0`, R180. -/
  | cls
  /-- `00EE`, R121. -/
  | ret
  /-- `1nnn`, R122. -/
  | jp (nnn : Addr12)
  /-- `2nnn`, R123. -/
  | call (nnn : Addr12)
  /-- `3xnn`, R125. -/
  | seImm (x : RegIdx) (nn : Byte)
  /-- `4xnn`, R126. -/
  | sneImm (x : RegIdx) (nn : Byte)
  /-- `5xy0`, R127. -/
  | seReg (x y : RegIdx)
  /-- `6xnn`, R141. -/
  | ldImm (x : RegIdx) (nn : Byte)
  /-- `7xnn`, R142. -/
  | addImm (x : RegIdx) (nn : Byte)
  /-- `8xy0`, R143. -/
  | ldReg (x y : RegIdx)
  /-- `8xy1`, R144. -/
  | orReg (x y : RegIdx)
  /-- `8xy2`, R145. -/
  | andReg (x y : RegIdx)
  /-- `8xy3`, R146. -/
  | xorReg (x y : RegIdx)
  /-- `8xy4`, R147. -/
  | addReg (x y : RegIdx)
  /-- `8xy5`, R149. -/
  | subReg (x y : RegIdx)
  /-- `8xy6`, R148. -/
  | shr (x y : RegIdx)
  /-- `8xy7`, R151. -/
  | subnReg (x y : RegIdx)
  /-- `8xyE`, R150. -/
  | shl (x y : RegIdx)
  /-- `9xy0`, R128. -/
  | sneReg (x y : RegIdx)
  /-- `Annn`, R161. -/
  | ldI (nnn : Addr12)
  /-- `Bnnn`, R124. -/
  | jpV0 (nnn : Addr12)
  /-- `Cxnn`, R153. -/
  | rnd (x : RegIdx) (nn : Byte)
  /-- `Dxyn`, R182. -/
  | drw (x y : RegIdx) (n : BitVec 4)
  /-- `Ex9E`, R200. -/
  | skp (x : RegIdx)
  /-- `ExA1`, R201. -/
  | sknp (x : RegIdx)
  /-- `Fx07`, R203. -/
  | ldVxDt (x : RegIdx)
  /-- `Fx0A`, R202. -/
  | ldVxK (x : RegIdx)
  /-- `Fx15`, R204. -/
  | ldDtVx (x : RegIdx)
  /-- `Fx18`, R205. -/
  | ldStVx (x : RegIdx)
  /-- `Fx1E`, R162. -/
  | addIVx (x : RegIdx)
  /-- `Fx29`, R163. -/
  | ldFVx (x : RegIdx)
  /-- `Fx33`, R165. -/
  | ldBVx (x : RegIdx)
  /-- `Fx55`, R166. -/
  | ldMemVx (x : RegIdx)
  /-- `Fx65`, R167. -/
  | ldVxMem (x : RegIdx)
  deriving DecidableEq, Repr

end Sys2Proof
end

