-- ==== Sys2Proof/WellFormed.lean ====
section
/-! DEFINITION. Which instruction words are legal, said as R98 says it and without the decoder's table
(spec/30_encoding.md), and that no operand value of an instruction is restricted (R100). -/

namespace Sys2Proof

/-- Every value of X, Y, N, NN, NNN is legal in every format that has the field (R100), and the operand types hold
exactly the values of the fields, so no term of `Instr` is ill formed (log 25). -/
def Instr.wellFormed (_ : Instr) : Bool := true

/-! The checks of R98 on a word, one for each row of its table of illegal words. The word is given as a number, so
w[15:12] is its quotient by 4096, w[3:0] its remainder by 16 and w[7:0] its remainder by 256 (R91). -/

/-- `0nnn` except `00E0` and `00EE` (R98). -/
def illegalIn0 (w : Nat) : Bool := w / 4096 == 0 && !(w == 0x00E0 || w == 0x00EE)

/-- `5xyN` with N ≠ 0 (R98; the spec's decision D3, log 15). -/
def illegalIn5 (w : Nat) : Bool := w / 4096 == 5 && w % 16 != 0

/-- `8xyN` with N ∈ {8, 9, A, B, C, D, F} (R98). -/
def illegalIn8 (w : Nat) : Bool := w / 4096 == 8 && [8, 9, 10, 11, 12, 13, 15].contains (w % 16)

/-- `9xyN` with N ≠ 0 (R98; the spec's decision D3, log 15). -/
def illegalIn9 (w : Nat) : Bool := w / 4096 == 9 && w % 16 != 0

/-- `ExNN` with NN ∉ {9E, A1} (R98). -/
def illegalInE (w : Nat) : Bool := w / 4096 == 14 && !([0x9E, 0xA1].contains (w % 256))

/-- `FxNN` with NN not among the nine sub-opcodes (R98). -/
def illegalInF (w : Nat) : Bool :=
  w / 4096 == 15 && !([0x07, 0x0A, 0x15, 0x18, 0x1E, 0x29, 0x33, 0x55, 0x65].contains (w % 256))

/-- A word is legal exactly when it is in none of R98's six sets. -/
def legalWord (w : Word) : Bool :=
  !(illegalIn0 w.toNat || illegalIn5 w.toNat || illegalIn8 w.toNat || illegalIn9 w.toNat
    || illegalInE w.toNat || illegalInF w.toNat)

end Sys2Proof
end

