-- ==== Sys2Proof/Decode.lean ====
section
/-! DEFINITION. The decoder (spec/30_encoding.md, R91 to R98) and, after it, the encoder. -/

namespace Sys2Proof

/-! The fields of an instruction word (R91). -/

/-- `OP` = w[15:12]. -/
def opOf (w : Word) : BitVec 4 := w.extractLsb' 12 4
/-- `X` = w[11:8]. -/
def xOf (w : Word) : RegIdx := w.extractLsb' 8 4
/-- `Y` = w[7:4]. -/
def yOf (w : Word) : RegIdx := w.extractLsb' 4 4
/-- `N` = w[3:0]. -/
def nOf (w : Word) : BitVec 4 := w.extractLsb' 0 4
/-- `NN` = w[7:0]. -/
def nnOf (w : Word) : Byte := w.extractLsb' 0 8
/-- `NNN` = w[11:0]. -/
def nnnOf (w : Word) : Addr12 := w.extractLsb' 0 12

/-- Why a decoder gives no instruction, by name. -/
inductive DecodeError where
  /-- The word matches none of the 34 rows (R94, R98). -/
  | invalidOpcode (w : Word)
  /-- Fewer than the two bytes of a word were given (R90). -/
  | truncated
  deriving DecidableEq, Repr

/-- The mask the most significant nibble selects (R95). -/
def maskOf (op : BitVec 4) : Word :=
  match op.toNat with
  | 0 => 0xFFFF
  | 5 => 0xF00F
  | 8 => 0xF00F
  | 9 => 0xF00F
  | 14 => 0xF0FF
  | 15 => 0xF0FF
  | _ => 0xF000

/-- `decode(w)`: the masked word is looked up among the 34 match values; no match is `InvalidOpcode` (R94, R96). -/
def decode (w : Word) : Except DecodeError Instr :=
  match (w &&& maskOf (opOf w)).toNat with
  | 0x00E0 => .ok .cls
  | 0x00EE => .ok .ret
  | 0x1000 => .ok (.jp (nnnOf w))
  | 0x2000 => .ok (.call (nnnOf w))
  | 0x3000 => .ok (.seImm (xOf w) (nnOf w))
  | 0x4000 => .ok (.sneImm (xOf w) (nnOf w))
  | 0x5000 => .ok (.seReg (xOf w) (yOf w))
  | 0x6000 => .ok (.ldImm (xOf w) (nnOf w))
  | 0x7000 => .ok (.addImm (xOf w) (nnOf w))
  | 0x8000 => .ok (.ldReg (xOf w) (yOf w))
  | 0x8001 => .ok (.orReg (xOf w) (yOf w))
  | 0x8002 => .ok (.andReg (xOf w) (yOf w))
  | 0x8003 => .ok (.xorReg (xOf w) (yOf w))
  | 0x8004 => .ok (.addReg (xOf w) (yOf w))
  | 0x8005 => .ok (.subReg (xOf w) (yOf w))
  | 0x8006 => .ok (.shr (xOf w) (yOf w))
  | 0x8007 => .ok (.subnReg (xOf w) (yOf w))
  | 0x800E => .ok (.shl (xOf w) (yOf w))
  | 0x9000 => .ok (.sneReg (xOf w) (yOf w))
  | 0xA000 => .ok (.ldI (nnnOf w))
  | 0xB000 => .ok (.jpV0 (nnnOf w))
  | 0xC000 => .ok (.rnd (xOf w) (nnOf w))
  | 0xD000 => .ok (.drw (xOf w) (yOf w) (nOf w))
  | 0xE09E => .ok (.skp (xOf w))
  | 0xE0A1 => .ok (.sknp (xOf w))
  | 0xF007 => .ok (.ldVxDt (xOf w))
  | 0xF00A => .ok (.ldVxK (xOf w))
  | 0xF015 => .ok (.ldDtVx (xOf w))
  | 0xF018 => .ok (.ldStVx (xOf w))
  | 0xF01E => .ok (.addIVx (xOf w))
  | 0xF029 => .ok (.ldFVx (xOf w))
  | 0xF033 => .ok (.ldBVx (xOf w))
  | 0xF055 => .ok (.ldMemVx (xOf w))
  | 0xF065 => .ok (.ldVxMem (xOf w))
  | _ => .error (.invalidOpcode w)

/-- A word as memory holds it: the byte at the lower address is bits 15..8 (R62). -/
def wordOfBytes (hi lo : Byte) : Word := hi ++ lo

/-- The two bytes of a word, the lower address first (R62). -/
def bytesOfWord (w : Word) : List Byte := [w.extractLsb' 8 8, w.extractLsb' 0 8]

/-- Decode the instruction at the front of a list of bytes and give the bytes after it (R90). -/
def decodeBytes (bs : List Byte) : Except DecodeError (Instr × List Byte) :=
  match bs with
  | hi :: lo :: rest =>
    match decode (wordOfBytes hi lo) with
    | .ok i => .ok (i, rest)
    | .error e => .error e
  | _ => .error .truncated

/-! The formats, assembled field by field from the most significant bit down (R92). -/

/-- Format A: `OP`, `NNN`. -/
def formatA (op : BitVec 4) (nnn : Addr12) : Word := op ++ nnn
/-- Formats I and S: `OP`, `X`, then `NN` or a literal sub-opcode of two nibbles. -/
def formatI (op : BitVec 4) (x : RegIdx) (nn : Byte) : Word := op ++ x ++ nn
/-- Formats R and D: `OP`, `X`, `Y`, then a literal sub-opcode or `N`. -/
def formatR (op : BitVec 4) (x y : RegIdx) (n : BitVec 4) : Word := op ++ x ++ y ++ n

/-- The word of an instruction, by its row of the opcode map (R92, R96). -/
def encode : Instr → Word
  | .cls => 0x00E0
  | .ret => 0x00EE
  | .jp nnn => formatA 0x1 nnn
  | .call nnn => formatA 0x2 nnn
  | .seImm x nn => formatI 0x3 x nn
  | .sneImm x nn => formatI 0x4 x nn
  | .seReg x y => formatR 0x5 x y 0x0
  | .ldImm x nn => formatI 0x6 x nn
  | .addImm x nn => formatI 0x7 x nn
  | .ldReg x y => formatR 0x8 x y 0x0
  | .orReg x y => formatR 0x8 x y 0x1
  | .andReg x y => formatR 0x8 x y 0x2
  | .xorReg x y => formatR 0x8 x y 0x3
  | .addReg x y => formatR 0x8 x y 0x4
  | .subReg x y => formatR 0x8 x y 0x5
  | .shr x y => formatR 0x8 x y 0x6
  | .subnReg x y => formatR 0x8 x y 0x7
  | .shl x y => formatR 0x8 x y 0xE
  | .sneReg x y => formatR 0x9 x y 0x0
  | .ldI nnn => formatA 0xA nnn
  | .jpV0 nnn => formatA 0xB nnn
  | .rnd x nn => formatI 0xC x nn
  | .drw x y n => formatR 0xD x y n
  | .skp x => formatI 0xE x 0x9E
  | .sknp x => formatI 0xE x 0xA1
  | .ldVxDt x => formatI 0xF x 0x07
  | .ldVxK x => formatI 0xF x 0x0A
  | .ldDtVx x => formatI 0xF x 0x15
  | .ldStVx x => formatI 0xF x 0x18
  | .addIVx x => formatI 0xF x 0x1E
  | .ldFVx x => formatI 0xF x 0x29
  | .ldBVx x => formatI 0xF x 0x33
  | .ldMemVx x => formatI 0xF x 0x55
  | .ldVxMem x => formatI 0xF x 0x65

/-- The bytes of an instruction as memory holds them. -/
def encodeBytes (i : Instr) : List Byte := bytesOfWord (encode i)

/-- The decoder's reading of an instruction given as the opcode table numbers its bits: 16 bits, bit 0 the least
significant bit of its one word. Bits above `nbits` are 0, and a number with bits above 16 holds more than one
instruction. -/
def decodeTableWord (nbits w : Nat) : Option Instr :=
  if w % 2 ^ nbits < 2 ^ 16 then
    match decodeBytes (bytesOfWord (BitVec.ofNat 16 (w % 2 ^ nbits))) with
    | .ok (i, []) => some i
    | _ => none
  else none

end Sys2Proof
end

