-- ==== Sys2Proof/Config.lean ====
section
/-! DEFINITION. What an implementation fixes and what the spec leaves open (spec/00_scope.md, R6 and R7). -/

namespace Sys2Proof

namespace Config

/-- `MEM_SIZE` (R6). -/
def memSize : Nat := 4096

/-- `PROGRAM_BASE`, the entry point (R6, R61). -/
def programBase : Nat := 512

/-- `MAX_PROGRAM_SIZE` = `MEM_SIZE` - 512 (R6). -/
def maxProgramSize : Nat := 3584

/-- `FONT_SIZE`: the font lies at addresses 0 to 79 (R6, R31). -/
def fontSize : Nat := 80

/-- `STACK_DEPTH` (R27; the spec's decision D4; log 11). -/
def stackDepth : Nat := 16

/-- `SPRITE_ROW_BIAS`: `Dxyn` draws N plus this many rows (R181; the spec's decision D29; log 14). -/
def spriteRowBias : Nat := 1

/-- FREE VALUE: the byte the random source yields at its n-th draw when none was injected (R152, U9; log 3). -/
opaque randomByte : Nat → Byte

/-- OPEN parameter `ERROR_PATTERN`, the 256 display bytes of error entry (R286, U11; log 5). -/
opaque errorPattern : Vector Byte 256

/-- OPEN parameter `CYCLES_PER_FRAME_RESET`, the power-on value of `cycles_per_frame` (R37, U12; log 6). -/
opaque cyclesPerFrameReset : Nat

/-- PRESUMED (the family's): the conventional font table R31 offers as the default of `FONT` (G1; log 4). -/
def conventionalFont : Vector Byte 80 :=
  #v[0xF0, 0x90, 0x90, 0x90, 0xF0, 0x20, 0x60, 0x20, 0x20, 0x70,
     0xF0, 0x10, 0xF0, 0x80, 0xF0, 0xF0, 0x10, 0xF0, 0x10, 0xF0,
     0x90, 0x90, 0xF0, 0x10, 0x10, 0xF0, 0x80, 0xF0, 0x10, 0xF0,
     0xF0, 0x80, 0xF0, 0x90, 0xF0, 0xF0, 0x10, 0x20, 0x40, 0x40,
     0xF0, 0x90, 0xF0, 0x90, 0xF0, 0xF0, 0x90, 0xF0, 0x10, 0xF0,
     0xF0, 0x90, 0xF0, 0x90, 0x90, 0xE0, 0x90, 0xE0, 0x90, 0xE0,
     0xF0, 0x80, 0x80, 0x80, 0xF0, 0xE0, 0x90, 0x90, 0x90, 0xE0,
     0xF0, 0x80, 0xF0, 0x80, 0xF0, 0xF0, 0x80, 0xF0, 0x80, 0x80]

end Config

/-- The two byte tables the spec leaves open and takes as arguments of the model: `FONT` (R31) and
`ERROR_PATTERN` (R286). Nothing writes them (log 4, log 5). -/
structure Params where
  font : Vector Byte 80
  errorPattern : Vector Byte 256
  deriving DecidableEq, Repr

end Sys2Proof
end

