-- ==== Sys2Proof/Machine/State.lean ====
section
/-! DEFINITION. The state of the Machine (spec/10_state.md, R20), why a step can stop, and the state after
power-on (R42, R43). -/

namespace Sys2Proof.Machine

/-- The lifecycle state; there is no fifth value for errors (R35, R252). -/
inductive Lifecycle where
  | empty
  | reset
  | running
  | paused
  deriving DecidableEq, Repr

/-- The four error kinds; each is taken by error entry, none stops the model (R280, R286). -/
inductive ErrorKind where
  /-- The fetched word matches none of the 34 patterns. -/
  | invalidOpcode
  /-- `00EE` with an empty call stack. -/
  | stackUnderflow
  /-- `2nnn` with a full call stack. -/
  | stackOverflow
  /-- An address of 4096 or more would be read or written. -/
  | memoryOutOfRange
  deriving DecidableEq, Repr

/-- Reasons for which the machine stops with a fault: none. Every error of R280 is followed by error entry (R286),
which is a next state, and every cycle ends (R232); nobody raises a fault (log 23). -/
inductive Fault : Type where
  deriving DecidableEq, Repr

/-- Reasons for which a command or an instruction has no meaning. All are safe: the model stops. -/
inductive Refusal where
  /-- Raised by `exec` for an instruction without a meaning (there is none such). Safe. -/
  | notModelled (mnemonic : String)
  /-- Raised by `load` with more than 3584 bytes: the spec gives it no meaning (R242). Safe. -/
  | programTooLarge (size : Nat)
  /-- Raised by `set_key` with an index above 15: refused by the spec (R245). Safe. -/
  | keyIndexOutOfRange (index : Nat)
  /-- Raised by setting a negative `cycles_per_frame`: refused by the spec (R247). Safe. -/
  | negativeCyclesPerFrame (value : Int)
  deriving DecidableEq, Repr

/-- The display buffer, 256 bytes row by row, 8 bytes a row, most significant bit leftmost (R33). -/
abbrev Display := Vector Byte 256

/-- Main memory as data: the cells whose byte differs from what an unlisted address reads as, in rising order of
address (log 8). -/
abbrev Memory := List Host.Cell

/-- What an unlisted address reads as: the font byte at 0..79, zero elsewhere, which are the power-on contents
(R31, R43, R61; log 8). -/
def Memory.background (font : Vector Byte 80) (a : Nat) : Byte :=
  if h : a < 80 then font[a] else 0

/-- The canonical form: addresses strictly rising, inside the 4096 bytes, and no cell that repeats the background. -/
abbrev Memory.wf (font : Vector Byte 80) (m : Memory) : Prop :=
  m.Pairwise (fun c d => c.1 < d.1) ∧ ∀ c ∈ m, c.1 < Config.memSize ∧ c.2 ≠ Memory.background font c.1

/-- The complete state of the Machine (R20), and after it the model's own fields. -/
structure State where
  /-- `V0` to `VF` (R21); `VF` is the flags register (R22). -/
  v : Vector Byte 16
  /-- The index register (R23). -/
  i : Word
  /-- The program counter (R24). -/
  pc : Word
  /-- The valid entries of `call_stack`, newest first; `SP` is its length (R26, D28; log 9). -/
  stack : List Word
  /-- `delay_timer` (R32). -/
  dt : Byte
  /-- `sound_timer` (R32). -/
  st : Byte
  /-- `memory`, 4096 bytes (R30). -/
  mem : Memory
  /-- `display_buffer` (R33). -/
  disp : Display
  /-- `keys`, the 16 keypad latches (R34). -/
  keys : Vector Bool 16
  /-- `state` (R35). -/
  lifecycle : Lifecycle
  /-- `shift_quirk_mode` (R36). -/
  shiftQuirk : Bool
  /-- `cycles_per_frame` (R37). -/
  cyclesPerFrame : Nat
  /-- `program_loaded` (R38). -/
  programLoaded : Bool
  /-- `rom`, the retained program image; `program_size` is its length (R38; log 10). -/
  rom : List Byte
  /-- `frame_dirty` (R39). -/
  frameDirty : Bool
  /-- The open parameters `FONT` and `ERROR_PATTERN` (R7); nothing writes them (log 4, log 5). -/
  params : Params
  /-- MODEL'S OWN: random bytes the host injected and no `Cxnn` has consumed yet (R152; log 3). -/
  randomInput : List Byte
  /-- MODEL'S OWN: how many random bytes were drawn; it selects the free value (R152; log 3). -/
  randomDraws : Nat
  /-- MODEL'S OWN, a ghost: the error the last cycle ended with, if any (R281; log 2). -/
  lastError : Option ErrorKind
  deriving DecidableEq, Repr

/-- The state after power-on, the "after power-on" column of R43 (R42, R320; log 4 to 8). -/
def State.reset : State where
  v := Vector.replicate 16 0
  i := 0
  pc := 512
  stack := []
  dt := 0
  st := 0
  mem := []
  disp := Vector.replicate 256 0
  keys := Vector.replicate 16 false
  lifecycle := .empty
  shiftQuirk := false
  cyclesPerFrame := Config.cyclesPerFrameReset
  programLoaded := false
  rom := []
  frameDirty := false
  params := { font := Config.conventionalFont, errorPattern := Config.errorPattern }
  randomInput := []
  randomDraws := 0
  lastError := none

end Sys2Proof.Machine
end

