-- ==== Sys2Proof/Machine/Ops.lean ====
section
/-! DEFINITION. The named operations over registers, memory, the call stack, the display and the keys, error entry,
and the program reset that is the way back from it. -/

namespace Sys2Proof.Machine

/-- What a step or a host command answers. -/
abbrev Result := Host.Outcome State Fault Refusal

/-! ## Registers -/

/-- `V[x]` (R9, R21). -/
def State.reg (s : State) (x : RegIdx) : Byte := s.v[x.toNat]'x.isLt

/-- `V[x] <- b` (R9, R21): every register, `VF` included, is written like any other. -/
def State.setReg (s : State) (x : RegIdx) (b : Byte) : State := { s with v := s.v.set x.toNat b x.isLt }

/-- `V[15] <- b`: the flag write of an instruction (R22). -/
def State.setFlag (s : State) (b : Byte) : State := s.setReg regF b

/-- `I <- a`, already reduced modulo 65536 (R23, D34). -/
def State.setIndex (s : State) (a : Word) : State := { s with i := a }

/-- `PC <- a`, already reduced modulo 65536 (R9, R25). -/
def State.setPc (s : State) (a : Word) : State := { s with pc := a }

/-- `PC <- (PC + 2) mod 65536`: the advance of a cycle (R222) and the skip of a handler (R120). -/
def State.advance (s : State) : State := s.setPc (s.pc + 2)

/-- `PC <- PC - 2`: the waiting `Fx0A` goes back to its own address (R202). -/
def State.rewind (s : State) : State := s.setPc (s.pc - 2)

/-- A skip instruction's effect: skip the next word when the condition holds (R120). -/
def State.skipIf (s : State) (c : Bool) : State := if c then s.advance else s

/-- `DT <- b` (R32). -/
def State.setDelay (s : State) (b : Byte) : State := { s with dt := b }

/-- `ST <- b` (R32). -/
def State.setSound (s : State) (b : Byte) : State := { s with st := b }

/-- `V[0..] <- bytes`, from register 0 up; the registers above keep their values (R167). -/
def State.setRegs (s : State) (bytes : List Byte) : State :=
  { s with v := Vector.ofFn fun r => (bytes[r.val]?).getD s.v[r] }

/-- `V[0..x]` as a list of bytes (R166). -/
def State.regsUpTo (s : State) (x : RegIdx) : List Byte := s.v.toList.take (x.toNat + 1)

/-! ## Main memory -/

/-- The byte at an address: the listed one, else the background (R60, R61). -/
def Memory.read (font : Vector Byte 80) (m : Memory) (a : Nat) : Byte :=
  match m with
  | [] => Memory.background font a
  | (k, b) :: rest => if k = a then b else Memory.read font rest a

/-- Insert a cell before the first one of no lower address. -/
def Memory.insert (m : Memory) (a : Nat) (b : Byte) : Memory :=
  match m with
  | [] => [(a, b)]
  | c :: rest => if c.1 < a then c :: Memory.insert rest a b else (a, b) :: c :: rest

/-- Store one byte and keep the canonical form: a byte equal to the background is not listed (R64; log 8). -/
def Memory.write (font : Vector Byte 80) (m : Memory) (a : Nat) (b : Byte) : Memory :=
  let others := m.filter fun c => c.1 != a
  if b = Memory.background font a then others else Memory.insert others a b

/-- Store bytes at ascending addresses (R62, R68). -/
def Memory.writeBytes (font : Vector Byte 80) (m : Memory) (a : Nat) (bs : List Byte) : Memory :=
  match bs with
  | [] => m
  | b :: rest => Memory.writeBytes font (Memory.write font m a b) (a + 1) rest

/-- `memory[a]` (R30). -/
def State.readByte (s : State) (a : Nat) : Byte := Memory.read s.params.font s.mem a

/-- Replace the contents of memory. -/
def State.setMem (s : State) (m : Memory) : State := { s with mem := m }

/-- The bytes at `a .. a+n-1`, or nothing when one of those addresses is 4096 or more (R63, R65): the whole range is
checked first, on natural addresses that never wrap (D6, D7, D8; log 12). -/
def State.loadBlock (s : State) (a n : Nat) : Option (List Byte) :=
  if a + n ≤ Config.memSize then some ((List.range n).map fun k => s.readByte (a + k)) else none

/-- Store bytes at `a .. a+n-1`, or nothing when one of those addresses is 4096 or more (R64, R65; log 12). -/
def State.storeBlock (s : State) (a : Nat) (bs : List Byte) : Option State :=
  if a + bs.length ≤ Config.memSize then some (s.setMem (Memory.writeBytes s.params.font s.mem a bs)) else none

/-- Instruction fetch, `MemRead(PC, 2)`: the big-endian word at `PC`, or nothing when `PC` is 4095 or more
(R62, R66, R221). -/
def State.fetch (s : State) : Option Word :=
  match s.loadBlock s.pc.toNat 2 with
  | some [hi, lo] => some (wordOfBytes hi lo)
  | _ => none

/-! ## Call stack -/

/-- `SP`, the number of valid entries (R26). -/
def State.sp (s : State) : Nat := s.stack.length

/-- Replace the valid entries of the call stack. -/
def State.setStack (s : State) (l : List Word) : State := { s with stack := l }

/-- `push(a)`, or nothing when `SP = STACK_DEPTH` (R28, D5; log 11). -/
def State.push (s : State) (a : Word) : Option State :=
  if s.sp < Config.stackDepth then some (s.setStack (a :: s.stack)) else none

/-- `pop()`: the popped address and the state after, or nothing when `SP = 0` (R29). -/
def State.pop (s : State) : Option (Word × State) :=
  match s.stack with
  | [] => none
  | a :: rest => some (a, s.setStack rest)

/-! ## Display, keys, random source -/

/-- Replace the display buffer. -/
def State.setDisp (s : State) (d : Display) : State := { s with disp := d }

/-- 256 zero bytes (R180, R43). -/
def clearedDisplay : Display := Vector.replicate 256 0

/-- `frame_dirty <- b` (R39). -/
def State.setDirty (s : State) (b : Bool) : State := { s with frameDirty := b }

/-- `key[k]` (R34). -/
def State.key (s : State) (k : BitVec 4) : Bool := s.keys[k.toNat]'k.isLt

/-- `key[k] <- b` (R34, R245). -/
def State.setKey (s : State) (k : BitVec 4) (b : Bool) : State := { s with keys := s.keys.set k.toNat b k.isLt }

/-- The least pressed key, if one is pressed (R202). -/
def State.lowestKey (s : State) : Option (BitVec 4) :=
  ((List.finRange 16).map BitVec.ofFin).find? fun k => s.key k

/-- The byte `draw_byte()` yields now: the first injected one, else a free value (R152; log 3). -/
def State.nextRandom (s : State) : Byte :=
  match s.randomInput with
  | b :: _ => b
  | [] => Config.randomByte s.randomDraws

/-- The random byte has been consumed (R152). -/
def State.consumeRandom (s : State) : State :=
  { s with randomInput := s.randomInput.tail, randomDraws := s.randomDraws + 1 }

/-! ## Errors -/

/-- Record the outcome of a cycle, a ghost of the model (R281; log 2). -/
def State.setError (s : State) (e : Option ErrorKind) : State := { s with lastError := e }

/-- Change the lifecycle state (R35). -/
def State.setLifecycle (s : State) (l : Lifecycle) : State := { s with lifecycle := l }

/-- ERROR ENTRY, the same for every kind: the display shows `ERROR_PATTERN` and the lifecycle state is Empty; nothing
is saved and nothing else changes (R286, R288). The kind is kept in the ghost only (R281). -/
def errorEntry (e : ErrorKind) (s : State) : State :=
  ((s.setDisp s.params.errorPattern).setLifecycle .empty).setError (some e)

/-- `raise E` in a cycle: the error is taken, and the machine is in its next state (R9, R286, R292; log 2). -/
def raise (e : ErrorKind) (s : State) : Result := .next (errorEntry e s)

/-- An operation that may fail its one check: go on with its result, or raise (R289). -/
def orRaise {α : Type} (e : ErrorKind) (s : State) (o : Option α) (k : α → Result) : Result :=
  match o with
  | some a => k a
  | none => raise e s

/-- Memory after a program reset: font, zeros, the program from 512, zeros (R241; D12; log 17). -/
def Memory.ofProgram (font : Vector Byte 80) (rom : List Byte) : Memory :=
  Memory.writeBytes font [] Config.programBase rom

/-- `program_reset()`, the one way back from an error: rebuild everything a program can write from the retained image
(R241, R243, R291). Keys, configuration, parameters and the random source keep their values (R321; log 17). -/
def programReset (s : State) : State :=
  { s with
    mem := Memory.ofProgram s.params.font s.rom
    v := Vector.replicate 16 0
    i := 0
    pc := BitVec.ofNat 16 Config.programBase
    stack := []
    dt := 0
    st := 0
    disp := clearedDisplay
    frameDirty := false
    lifecycle := .reset
    lastError := none }

/-! ## The timer clock -/

/-- One decrement, floored at 0 (R227). -/
def timerDown (t : Byte) : Byte := if t = 0 then 0 else t - 1

/-- The decrement of both timers at the start of a Running tick (R226, R227). -/
def State.decrementTimers (s : State) : State := (s.setDelay (timerDown s.dt)).setSound (timerDown s.st)

end Sys2Proof.Machine
end

