-- ==== Sys2Proof/Machine/Operands.lean ====
section
/-! DEFINITION. How an instruction's operand fields become values: the shift's source, key numbers, effective
addresses, the draw origin, decimal digits. -/

namespace Sys2Proof.Machine

/-- `target` of `8xy6` and `8xyE`: `V[y]` when `shift_quirk_mode` is true, `V[x]` when false (R36, R148, R150). -/
def State.shiftTarget (s : State) (x y : RegIdx) : Byte := if s.shiftQuirk then s.reg y else s.reg x

/-- `V[x] AND 0xF`, a key number or a font digit (R163, R207). -/
def State.lowNibble (s : State) (x : RegIdx) : BitVec 4 := (s.reg x).setWidth 4

/-- `I` as an unbounded natural address: `I + k` never wraps (R65, D7; log 12). -/
def State.dataAddr (s : State) : Nat := s.i.toNat

/-- The number of bytes `Fx55` and `Fx65` move: X + 1 (R166, R167). -/
def blockSize (x : RegIdx) : Nat := x.toNat + 1

/-- The number of rows `Dxyn` draws: N + `SPRITE_ROW_BIAS` (R181, D29; log 14). -/
def spriteRows (n : BitVec 4) : Nat := n.toNat + Config.spriteRowBias

/-- The column of the draw origin, `V[x] mod 64` (R182). -/
def State.originX (s : State) (x : RegIdx) : Nat := (s.reg x).toNat % 64

/-- The row of the draw origin, `V[y] mod 32` (R182). -/
def State.originY (s : State) (y : RegIdx) : Nat := (s.reg y).toNat % 32

/-- The address of a font digit's sprite, `5 * digit` (R31, R163). -/
def fontAddr (digit : BitVec 4) : Word := 5 * digit.setWidth 16

/-- The jump target of `Bnnn`, `NNN + V[0]` (R124). -/
def State.offsetTarget (s : State) (nnn : Addr12) : Word := nnn.setWidth 16 + (s.reg 0).setWidth 16

/-- The decimal digits of a byte: hundreds, tens, units, one byte each (R165). -/
def bcdDigits (b : Byte) : List Byte :=
  [BitVec.ofNat 8 (b.toNat / 100), BitVec.ofNat 8 (b.toNat / 10 % 10), BitVec.ofNat 8 (b.toNat % 10)]

end Sys2Proof.Machine
end

