-- ==== Sys2Proof/Machine/ControlFlow.lean ====
section
/-! DEFINITION. Control flow (spec/40_control_flow.md). `PC` was advanced before each meaning (R222). -/

namespace Sys2Proof.Machine

/-- `00EE` (R121). -/
def execRet (s : State) : Result := orRaise .stackUnderflow s s.pop fun p => .next (p.2.setPc p.1)

/-- `1nnn` (R122). -/
def execJp (nnn : Addr12) (s : State) : Result := .next (s.setPc (nnn.setWidth 16))

/-- `2nnn`: the value pushed is the advanced `PC` (R123, C2). -/
def execCall (nnn : Addr12) (s : State) : Result :=
  orRaise .stackOverflow s (s.push s.pc) fun t => .next (t.setPc (nnn.setWidth 16))

/-- `Bnnn` (R124). -/
def execJpV0 (nnn : Addr12) (s : State) : Result := .next (s.setPc (s.offsetTarget nnn))

/-- `3xnn` (R125). -/
def execSeImm (x : RegIdx) (nn : Byte) (s : State) : Result := .next (s.skipIf (s.reg x == nn))

/-- `4xnn` (R126). -/
def execSneImm (x : RegIdx) (nn : Byte) (s : State) : Result := .next (s.skipIf (s.reg x != nn))

/-- `5xy0` (R127). -/
def execSeReg (x y : RegIdx) (s : State) : Result := .next (s.skipIf (s.reg x == s.reg y))

/-- `9xy0` (R128). -/
def execSneReg (x y : RegIdx) (s : State) : Result := .next (s.skipIf (s.reg x != s.reg y))

end Sys2Proof.Machine
end

