-- ==== Sys2Proof/Machine/Flags.lean ====
section
/-! DEFINITION. The values the six flag-writing instructions write to `VF` (spec/10_state.md, R22). -/

namespace Sys2Proof.Machine

/-- A flag as the full byte that `VF` receives: 1 or 0 (R22). -/
def flagByte (b : Bool) : Byte := if b then 1 else 0

/-- `8xy4`: 1 if the 9-bit sum is over 255 (R147). -/
def carryFlag (a b : Byte) : Byte := flagByte (decide (a.toNat + b.toNat > 255))

/-- `8xy5`, `8xy7`: 1 if the minuend is at least the subtrahend, that is no borrow (R149, R151). -/
def notBorrowFlag (minuend subtrahend : Byte) : Byte := flagByte (decide (minuend.toNat ≥ subtrahend.toNat))

/-- `8xy6`: bit 0 of the target (R148). -/
def shiftRightFlag (target : Byte) : Byte := target &&& 1

/-- `8xyE`: bit 7 of the target (R150). -/
def shiftLeftFlag (target : Byte) : Byte := target >>> 7

/-- `Dxyn`: 1 if a set pixel became unset (R182, R185). -/
def collisionFlag (hit : Bool) : Byte := flagByte hit

end Sys2Proof.Machine
end

