-- ==== Sys2Proof/Machine/Display.lean ====
section
/-! DEFINITION. The display and the sprite blit (spec/43_display.md). -/

namespace Sys2Proof.Machine

/-- The index of a display byte, from its row and byte column, both wrapped (R33, R182). -/
def dispIndex (row col : Nat) : Fin 256 := ⟨row % 32 * 8 + col % 8, by omega⟩

/-- Whether pixel (px, py) is lit: bit `7 - (px mod 8)` of `disp[py*8 + px div 8]` (R33). -/
def pixel (d : Display) (px py : Nat) : Bool := d[dispIndex py (px / 8)].getLsbD (7 - px % 8)

/-- XOR a byte onto one display byte; `hit` turns true when a set pixel becomes unset (R182, R185). -/
def blitByte (k : Fin 256) (b : Byte) (p : Display × Bool) : Display × Bool :=
  (p.1.set k (p.1[k] ^^^ b), p.2 || (p.1[k] &&& b) != 0)

/-- One sprite row: its left part in the origin's byte column, its right part in the next one of the same row (R182). -/
def blitRow (ox row : Nat) (b : Byte) (p : Display × Bool) : Display × Bool :=
  let col := ox / 8
  let sh := ox % 8
  blitByte (dispIndex row (col + 1)) (b <<< (8 - sh)) (blitByte (dispIndex row col) (b >>> sh) p)

/-- The rows of a sprite, from row `row` downwards, each wrapped (R182). -/
def blitRows (ox row : Nat) (sprite : List Byte) (p : Display × Bool) : Display × Bool :=
  match sprite with
  | [] => p
  | b :: rest => blitRows ox (row + 1) rest (blitRow ox row b p)

/-- `00E0` (R180): `VF` and `frame_dirty` are not written (D23). -/
def execCls (s : State) : Result := .next (s.setDisp clearedDisplay)

/-- `Dxyn` (R182): origin and sprite are read first, `VF` is written after the display, and the frame is dirty. -/
def execDrw (x y : RegIdx) (n : BitVec 4) (s : State) : Result :=
  orRaise .memoryOutOfRange s (s.loadBlock s.dataAddr (spriteRows n)) fun sprite =>
    let p := blitRows (s.originX x) (s.originY y) sprite (s.disp, false)
    .next (((s.setDisp p.1).setFlag (collisionFlag p.2)).setDirty true)

end Sys2Proof.Machine
end

