-- ==== Sys2Proof/Machine/IndexMemory.lean ====
section
/-! DEFINITION. The index register and memory (spec/42_index_memory.md). -/

namespace Sys2Proof.Machine

/-- `Annn` (R161). -/
def execLdI (nnn : Addr12) (s : State) : Result := .next (s.setIndex (nnn.setWidth 16))

/-- `Fx1E` (R162). -/
def execAddIVx (x : RegIdx) (s : State) : Result := .next (s.setIndex (s.i + (s.reg x).setWidth 16))

/-- `Fx29` (R163). -/
def execLdFVx (x : RegIdx) (s : State) : Result := .next (s.setIndex (fontAddr (s.lowNibble x)))

/-- `Fx33` (R165). -/
def execLdBVx (x : RegIdx) (s : State) : Result :=
  orRaise .memoryOutOfRange s (s.storeBlock s.dataAddr (bcdDigits (s.reg x))) fun t => .next t

/-- `I <- (I + X + 1) mod 65536`, after a block move (R166, R167). -/
def State.advanceIndex (s : State) (x : RegIdx) : State := s.setIndex (s.i + BitVec.ofNat 16 (blockSize x))

/-- `Fx55` (R166). -/
def execLdMemVx (x : RegIdx) (s : State) : Result :=
  orRaise .memoryOutOfRange s (s.storeBlock s.dataAddr (s.regsUpTo x)) fun t => .next (t.advanceIndex x)

/-- `Fx65` (R167). -/
def execLdVxMem (x : RegIdx) (s : State) : Result :=
  orRaise .memoryOutOfRange s (s.loadBlock s.dataAddr (blockSize x)) fun bs => .next ((s.setRegs bs).advanceIndex x)

end Sys2Proof.Machine
end

