-- ==== Sys2Proof/Machine/KeypadTimers.lean ====
section
/-! DEFINITION. Keypad and timers (spec/44_keypad_timers.md). -/

namespace Sys2Proof.Machine

/-- `Ex9E`: the latch is read, not cleared (R200, R207). -/
def execSkp (x : RegIdx) (s : State) : Result := .next (s.skipIf (s.key (s.lowNibble x)))

/-- `ExA1` (R201, R207). -/
def execSknp (x : RegIdx) (s : State) : Result := .next (s.skipIf (!s.key (s.lowNibble x)))

/-- `Fx0A`: the least pressed key goes to `V[x]` and its latch is cleared; with no key the instruction repeats (R202). -/
def execLdVxK (x : RegIdx) (s : State) : Result :=
  match s.lowestKey with
  | some k => .next ((s.setReg x (k.setWidth 8)).setKey k false)
  | none => .next s.rewind

/-- `Fx07` (R203). -/
def execLdVxDt (x : RegIdx) (s : State) : Result := .next (s.setReg x s.dt)

/-- `Fx15` (R204). -/
def execLdDtVx (x : RegIdx) (s : State) : Result := .next (s.setDelay (s.reg x))

/-- `Fx18` (R205). -/
def execLdStVx (x : RegIdx) (s : State) : Result := .next (s.setSound (s.reg x))

end Sys2Proof.Machine
end

