-- ==== Sys2Proof/Machine/RegisterAlu.lean ====
section
/-! DEFINITION. Register load, arithmetic, logic, shift and random (spec/41_register_alu.md). Where an instruction
writes `VF` and `V[x]`, the writes happen in the order of its pseudocode, each seeing the one before (R140, D2; log 13). -/

namespace Sys2Proof.Machine

/-- `6xnn` (R141). -/
def execLdImm (x : RegIdx) (nn : Byte) (s : State) : Result := .next (s.setReg x nn)

/-- `7xnn` (R142). -/
def execAddImm (x : RegIdx) (nn : Byte) (s : State) : Result := .next (s.setReg x (s.reg x + nn))

/-- `8xy0` (R143). -/
def execLdReg (x y : RegIdx) (s : State) : Result := .next (s.setReg x (s.reg y))

/-- `8xy1` (R144). -/
def execOrReg (x y : RegIdx) (s : State) : Result := .next (s.setReg x (s.reg x ||| s.reg y))

/-- `8xy2` (R145). -/
def execAndReg (x y : RegIdx) (s : State) : Result := .next (s.setReg x (s.reg x &&& s.reg y))

/-- `8xy3` (R146). -/
def execXorReg (x y : RegIdx) (s : State) : Result := .next (s.setReg x (s.reg x ^^^ s.reg y))

/-- `8xy4`: the sum is taken before the flag is written (R147). -/
def execAddReg (x y : RegIdx) (s : State) : Result :=
  let sum := s.reg x + s.reg y
  .next ((s.setFlag (carryFlag (s.reg x) (s.reg y))).setReg x sum)

/-- The two writes of a subtraction: the flag, then the difference of the registers as they are after it (R149, R151). -/
def subtractInto (x minuend subtrahend : RegIdx) (s : State) : State :=
  let t := s.setFlag (notBorrowFlag (s.reg minuend) (s.reg subtrahend))
  t.setReg x (t.reg minuend - t.reg subtrahend)

/-- `8xy5` (R149). -/
def execSubReg (x y : RegIdx) (s : State) : Result := .next (subtractInto x x y s)

/-- `8xy7` (R151). -/
def execSubnReg (x y : RegIdx) (s : State) : Result := .next (subtractInto x y x s)

/-- `8xy6`: a logical shift of the target by one (R148). -/
def execShr (x y : RegIdx) (s : State) : Result :=
  let target := s.shiftTarget x y
  .next ((s.setFlag (shiftRightFlag target)).setReg x (target >>> 1))

/-- `8xyE` (R150). -/
def execShl (x y : RegIdx) (s : State) : Result :=
  let target := s.shiftTarget x y
  .next ((s.setFlag (shiftLeftFlag target)).setReg x (target <<< 1))

/-- `Cxnn`: one random byte is consumed, also with a zero mask (R152, R153; log 3). -/
def execRnd (x : RegIdx) (nn : Byte) (s : State) : Result :=
  .next (s.consumeRandom.setReg x (s.nextRandom &&& nn))

end Sys2Proof.Machine
end

