-- ==== Sys2Proof/Machine/Cycle.lean ====
section
/-! DEFINITION. One fetch-decode-execute cycle (spec/48_machine_cycle.md, R220). -/

namespace Sys2Proof.Machine

/-- Start of a cycle: no error has happened in it yet (R281; log 2). -/
def State.beginCycle (s : State) : State := s.setError none

/-- The part of a cycle after the fetch: advance, decode, run the handler (R220 steps 2 to 4, R222). -/
def runWord (w : Word) (s : State) : Result :=
  match decode w with
  | .ok i => exec i s.advance
  | .error _ => raise .invalidOpcode s.advance

/-- One cycle, with the error entry its caller makes when it fails (R220, R225): fetch range first, then decode, then
the handler's one check (R289). -/
def cycle (s : State) : Result :=
  orRaise .memoryOutOfRange s.beginCycle s.beginCycle.fetch fun w => runWord w s.beginCycle

/-- The machine with a word stored where the next cycle fetches it; a `PC` from which nothing can be fetched is first
set to the entry point (log 22). -/
def placeWord (s : State) (w : Word) : State :=
  let t := if s.pc.toNat + 1 < Config.memSize then s else s.setPc (BitVec.ofNat 16 Config.programBase)
  t.setMem (Memory.writeBytes t.params.font t.mem t.pc.toNat (bytesOfWord w))

end Sys2Proof.Machine
end

