-- ==== Sys2Proof/Machine/Step.lean ====
section
/-! DEFINITION. The step of the model: the host command `step()` (spec/48_machine_cycle.md, R225). -/

namespace Sys2Proof.Machine

/-- `step()`: exactly one cycle, in every lifecycle state, with error entry if it fails; the timers stand still (R225). -/
def step (s : State) : Host.Outcome State Fault Refusal := cycle s

/-- `s` with the instruction `w` of `nbits` bits stored where `step` fetches (log 22). -/
def State.withFetchWord (s : State) (nbits w : Nat) : State := placeWord s (BitVec.ofNat 16 (w % 2 ^ nbits))

end Sys2Proof.Machine
end

