-- ==== Sys2Proof/Machine/HostCommands.lean ====
section
/-! DEFINITION. The host commands that act, and runs of them (spec/49_host_commands_lifecycle.md, R240;
spec/48_machine_cycle.md, R226). -/

namespace Sys2Proof.Machine

/-- `load(bytes)`: retain the image and reset to it; an oversized image is refused (R241, R242; log 17, log 18). -/
def loadProgram (bytes : List Byte) (s : State) : Result :=
  if bytes.length ≤ Config.maxProgramSize then .next (programReset { s with rom := bytes, programLoaded := true })
  else .refused (.programTooLarge bytes.length)

/-- `reset_to_start()`: the program reset of the retained image, or nothing if none was ever loaded (R243). -/
def resetToStart (s : State) : Result := .next (if s.programLoaded then programReset s else s)

/-- `toggle()` (R244). -/
def toggle (s : State) : Result :=
  match s.lifecycle with
  | .reset => .next ((s.setDisp clearedDisplay).setLifecycle .running)
  | .running => .next (s.setLifecycle .paused)
  | .paused => .next (s.setLifecycle .running)
  | .empty => .next s

/-- Up to `n` cycles; the first one that ends with an error is the last (R226, R228). -/
def runBatch (n : Nat) (s : State) : Result :=
  match n with
  | 0 => .next s
  | k + 1 =>
    match cycle s with
    | .next t => if t.lastError.isSome then .next t else runBatch k t
    | r => r

/-- `tick()`: nothing unless Running; else one decrement of the timers and a batch of `cycles_per_frame` cycles (R226). -/
def tick (s : State) : Result :=
  if s.lifecycle = .running then runBatch s.cyclesPerFrame s.decrementTimers else .next s

/-- `set_key(index, pressed)`; an index above 15 is refused (R245; log 18). -/
def setKeyLatch (index : Nat) (pressed : Bool) (s : State) : Result :=
  if index < 16 then .next (s.setKey (BitVec.ofNat 4 index) pressed) else .refused (.keyIndexOutOfRange index)

/-- `set_shift_quirk_mode(b)` (R246). -/
def setShiftQuirkMode (b : Bool) (s : State) : Result := .next { s with shiftQuirk := b }

/-- Set `cycles_per_frame`; a negative value is refused (R247; log 18). -/
def setCyclesPerFrame (n : Int) (s : State) : Result :=
  if 0 ≤ n then .next { s with cyclesPerFrame := n.toNat } else .refused (.negativeCyclesPerFrame n)

/-- The host commands that write state or run cycles (R240). The read-only ones are in Machine/Views.lean. -/
inductive Command where
  | load (bytes : List Byte)
  | resetToStart
  | toggle
  | step
  | tick
  | setKey (index : Nat) (pressed : Bool)
  | setShiftQuirkMode (b : Bool)
  | setCyclesPerFrame (n : Int)
  deriving DecidableEq, Repr

/-- One host command, an atomic transition (R229, R240; log 21). -/
def command (c : Command) (s : State) : Result :=
  match c with
  | .load bytes => loadProgram bytes s
  | .resetToStart => resetToStart s
  | .toggle => toggle s
  | .step => step s
  | .tick => tick s
  | .setKey index pressed => setKeyLatch index pressed s
  | .setShiftQuirkMode b => setShiftQuirkMode b s
  | .setCyclesPerFrame n => setCyclesPerFrame n s

/-- A finite run: the commands in order, ending at the first one that is refused (R229). -/
def runCommands (cs : List Command) (s : State) : Result :=
  match cs with
  | [] => .next s
  | c :: rest =>
    match command c s with
    | .next t => runCommands rest t
    | r => r

/-- The host supplies random bytes to the source, after those not consumed yet (R152, R240, R296; log 3). -/
def supplyRandom (bytes : List Byte) (s : State) : State := { s with randomInput := s.randomInput ++ bytes }

end Sys2Proof.Machine
end

