-- ==== Sys2Proof/Machine/Views.lean ====
section
/-! DEFINITION. The read-only host commands (spec/49_host_commands_lifecycle.md, R248 to R251). They are functions of
the state, so none of them changes it (R45). -/

namespace Sys2Proof.Machine

/-- `get_display_bitmap()`, packed: the 256 bytes themselves (R187, R248). -/
def displayPacked (s : State) : List Byte := s.disp.toList

/-- `get_display_bitmap()`, expanded: element `py * 64 + px` is 1 when the pixel is lit (R187, D27; log 24). -/
def displayExpanded (s : State) : List Byte :=
  (List.range 2048).map fun k => if pixel s.disp (k % 64) (k / 64) then 1 else 0

/-- `is_sound_active()` (R249). -/
def isSoundActive (s : State) : Bool := s.st != 0

/-- The call-stack accessor: `stack[0..SP-1]`, oldest first (R251, D28; log 24). -/
def callStackView (s : State) : List Word := s.stack.reverse

/-- The memory accessor: all 4096 bytes (R251). -/
def memoryView (s : State) : List Byte := (List.range Config.memSize).map s.readByte

/-- `program_size` (R38; log 10). -/
def programSize (s : State) : Nat := s.rom.length

/-- The read-only commands (R240). -/
inductive Query where
  | displayPacked
  | displayExpanded
  | soundActive
  | lifecycle
  | pc
  | index
  | delayTimer
  | soundTimer
  | registers
  | memory
  | callStack
  deriving DecidableEq, Repr

/-- What a read-only command answers. -/
inductive Reply where
  | bytes (bs : List Byte)
  | words (ws : List Word)
  | byte (b : Byte)
  | word (w : Word)
  | flag (b : Bool)
  | state (l : Lifecycle)
  deriving DecidableEq, Repr

/-- The answer of a read-only command in a state (R248 to R251). -/
def answer (q : Query) (s : State) : Reply :=
  match q with
  | .displayPacked => .bytes (displayPacked s)
  | .displayExpanded => .bytes (displayExpanded s)
  | .soundActive => .flag (isSoundActive s)
  | .lifecycle => .state s.lifecycle
  | .pc => .word s.pc
  | .index => .word s.i
  | .delayTimer => .byte s.dt
  | .soundTimer => .byte s.st
  | .registers => .bytes s.v.toList
  | .memory => .bytes (memoryView s)
  | .callStack => .words (callStackView s)

end Sys2Proof.Machine
end

