-- ==== Sys2Proof/Safety.lean ====
section
/-! DEFINITION. What claims are stated in: the parts of the state and what stays the same, an error taken, which
instruction may write what (spec/10_state.md, R21 to R41), and the machine's invariant (R44). -/

namespace Sys2Proof.Machine

/-- The parts of the state a claim can name. Registers, memory bytes, display bytes and keys are named one by one. -/
inductive Component where
  | reg (x : RegIdx)
  | index
  | pc
  | stack
  | delay
  | sound
  | memory (a : Nat)
  | display (k : Fin 256)
  | key (k : BitVec 4)
  | lifecycle
  | shiftQuirk
  | cyclesPerFrame
  | program
  | frameDirty
  | params
  | random
  | lastError
  deriving DecidableEq, Repr

/-- A part reads the same in two states. Memory is compared through the read of one byte. -/
def Component.same (c : Component) (s t : State) : Prop :=
  match c with
  | .reg x => t.reg x = s.reg x
  | .index => t.i = s.i
  | .pc => t.pc = s.pc
  | .stack => t.stack = s.stack
  | .delay => t.dt = s.dt
  | .sound => t.st = s.st
  | .memory a => t.readByte a = s.readByte a
  | .display k => t.disp[k] = s.disp[k]
  | .key k => t.key k = s.key k
  | .lifecycle => t.lifecycle = s.lifecycle
  | .shiftQuirk => t.shiftQuirk = s.shiftQuirk
  | .cyclesPerFrame => t.cyclesPerFrame = s.cyclesPerFrame
  | .program => t.rom = s.rom ∧ t.programLoaded = s.programLoaded
  | .frameDirty => t.frameDirty = s.frameDirty
  | .params => t.params = s.params
  | .random => t.randomInput = s.randomInput ∧ t.randomDraws = s.randomDraws
  | .lastError => t.lastError = s.lastError

/-- FRAME: every part outside `changed` reads the same after as before. -/
def OnlyChanges (changed : Component → Prop) (s t : State) : Prop := ∀ c, ¬ changed c → c.same s t

/-- Some byte of the display. -/
def Component.isDisplay (c : Component) : Prop := ∃ k, c = .display k

/-- A byte of memory at `a .. a+n-1`. -/
def Component.isMemoryAt (a n : Nat) (c : Component) : Prop := ∃ b, a ≤ b ∧ b < a + n ∧ c = .memory b

/-- A register `V[0]` to `V[x]`. -/
def Component.isRegUpTo (x : RegIdx) (c : Component) : Prop := ∃ r : RegIdx, r.toNat ≤ x.toNat ∧ c = .reg r

/-- The host's settings and what it retains: no instruction may write them (R294, R300). -/
def Component.isHostSetting (c : Component) : Prop :=
  c = .shiftQuirk ∨ c = .cyclesPerFrame ∨ c = .program ∨ c = .params

/-- An error of kind `e` has been taken from `s`: lifecycle Empty and the error pattern on the display; every other part
is as it was (R286, R288). The ghost names the kind (R281). -/
def ErrorTaken (e : ErrorKind) (s t : State) : Prop :=
  t.lastError = some e ∧ t.lifecycle = .empty ∧ t.disp = s.params.errorPattern ∧
    OnlyChanges (fun c => c = .lastError ∨ c = .lifecycle ∨ c.isDisplay) s t

/-- Which parts an instruction that raises no error may write, beyond the advance of `PC` (R21, R22, R23, R24, R26,
R32, R33, R34, R39, R70). -/
def mayWrite (s : State) (i : Instr) (c : Component) : Prop :=
  match i with
  | .cls => c.isDisplay
  | .ret => c = .stack ∨ c = .pc
  | .jp _ => c = .pc
  | .call _ => c = .stack ∨ c = .pc
  | .seImm _ _ => c = .pc
  | .sneImm _ _ => c = .pc
  | .seReg _ _ => c = .pc
  | .ldImm x _ => c = .reg x
  | .addImm x _ => c = .reg x
  | .ldReg x _ => c = .reg x
  | .orReg x _ => c = .reg x
  | .andReg x _ => c = .reg x
  | .xorReg x _ => c = .reg x
  | .addReg x _ => c = .reg x ∨ c = .reg regF
  | .subReg x _ => c = .reg x ∨ c = .reg regF
  | .shr x _ => c = .reg x ∨ c = .reg regF
  | .subnReg x _ => c = .reg x ∨ c = .reg regF
  | .shl x _ => c = .reg x ∨ c = .reg regF
  | .sneReg _ _ => c = .pc
  | .ldI _ => c = .index
  | .jpV0 _ => c = .pc
  | .rnd x _ => c = .reg x ∨ c = .random
  | .drw _ _ _ => c.isDisplay ∨ c = .reg regF ∨ c = .frameDirty
  | .skp _ => c = .pc
  | .sknp _ => c = .pc
  | .ldVxDt x => c = .reg x
  | .ldVxK x => c = .reg x ∨ c = .pc ∨ ∃ k, c = .key k
  | .ldDtVx _ => c = .delay
  | .ldStVx _ => c = .sound
  | .addIVx _ => c = .index
  | .ldFVx _ => c = .index
  | .ldBVx _ => c.isMemoryAt s.dataAddr 3
  | .ldMemVx x => c.isMemoryAt s.dataAddr (blockSize x) ∨ c = .index
  | .ldVxMem x => c.isRegUpTo x ∨ c = .index

/-- The big-endian word at `PC`, as a number (R221): what a cycle fetches when `PC ≤ 4094`. -/
def State.nextWord (s : State) : Word :=
  BitVec.ofNat 16 ((s.readByte s.pc.toNat).toNat * 256 + (s.readByte (s.pc.toNat + 1)).toNat)

/-- The byte at `b` once `stored 0 .. stored (n-1)` lie at `a .. a+n-1`; every other byte is the one before (R64, R75). -/
def State.byteAfterStore (s : State) (a n : Nat) (stored : Nat → Byte) (b : Nat) : Byte :=
  if a ≤ b ∧ b < a + n then stored (b - a) else s.readByte b

/-- The big-endian word at `PC` after such a store (R62, R75). -/
def State.wordAfterStore (s : State) (a n : Nat) (stored : Nat → Byte) : Word :=
  BitVec.ofNat 16 ((s.byteAfterStore a n stored s.pc.toNat).toNat * 256 +
    (s.byteAfterStore a n stored (s.pc.toNat + 1)).toNat)

/-- Sprite pixel (r, j) of a draw lies on display pixel (px, py) and is set (R183). -/
def spriteSets (s : State) (x y : RegIdx) (n : BitVec 4) (px py : Nat) : Prop :=
  ∃ r j, r < spriteRows n ∧ j < 8 ∧ (s.originX x + j) % 64 = px ∧ (s.originY y + r) % 32 = py ∧
    (s.readByte (s.dataAddr + r)).getLsbD (7 - j) = true

/-- A display byte a draw can touch: in one of its rows, in the origin's byte column or the next (R182). -/
def spriteTouches (s : State) (x y : RegIdx) (n : BitVec 4) (k : Fin 256) : Prop :=
  ∃ r, r < spriteRows n ∧
    (k = dispIndex (s.originY y + r) (s.originX x / 8) ∨ k = dispIndex (s.originY y + r) (s.originX x / 8 + 1))

/-- THE INVARIANT of every state a host can bring the machine to (R44, R254; log 2, log 8). -/
structure Inv (s : State) : Prop where
  /-- Memory keeps its canonical form, inside 0..4095. -/
  memory : Memory.wf s.params.font s.mem
  /-- `0 ≤ SP ≤ STACK_DEPTH`. -/
  depth : s.sp ≤ Config.stackDepth
  /-- Every valid stack entry is in 2..4096. -/
  returns : ∀ a ∈ s.stack, 2 ≤ a.toNat ∧ a.toNat ≤ 4096
  /-- `0 ≤ PC ≤ 4350`. -/
  pc : s.pc.toNat ≤ 4350
  /-- `program_size ≤ 3584`. -/
  size : s.rom.length ≤ Config.maxProgramSize
  /-- Reset, Running and Paused imply a loaded program. -/
  loaded : s.lifecycle ≠ .empty → s.programLoaded = true
  /-- Before the first `load` no image is retained. -/
  noImage : s.programLoaded = false → s.rom = []
  /-- After a failed cycle the machine is Empty and shows the error pattern. -/
  error : s.lastError ≠ none → s.lifecycle = .empty ∧ s.disp = s.params.errorPattern

end Sys2Proof.Machine
end

