-- ==== Sys2Proof/Certificates/Slice0/Obligations.lean ====
section
/-! DEFINITION. The statements for the provers. A statement about an instruction is about its handler, with `PC` already
advanced (spec/48_machine_cycle.md, R222); StepRunsDecodedInstruction ties the handlers to the step. Where a clause rests
on a decision of the spec ("[decision: see 92_eei_decisions.md Dn]") or on a model's choice, the docstring names it. -/

open Sys2Proof Sys2Proof.Machine

/-! ## Encoding -/

/-- Decoding an encoded instruction gives it back, with every operand at every value, and the bytes after it are left
(R92, R94, R96; masks of families 0, 5, 9 by the spec's decision D3). -/
def Obligations.DecodeOfEncodeGivesInstructionBack : Prop :=
  ∀ i : Instr, i.wellFormed = true →
    decode (encode i) = .ok i ∧ ∀ rest : List Byte, decodeBytes (encodeBytes i ++ rest) = .ok (i, rest)

/-- A legal word is the encoding of the instruction it decodes to: no legal word has an ignored bit (R99). That `5xyN` and
`9xyN` with N other than 0 do not decode, as this implies, is the spec's decision D3 (log 15). -/
def Obligations.EncodeOfDecodeGivesWordBack : Prop :=
  ∀ (w : Word) (i : Instr), decode w = .ok i → encode i = w

/-- A word decodes exactly when it is in none of R98's sets of illegal words, and is refused by name otherwise. That the
sets hold `5xyN`, `9xyN` with N other than 0 and every `0nnn` but two is the spec's decision D3 (log 15). -/
def Obligations.IllegalWordsAreExactlyTheListedOnes : Prop :=
  ∀ w : Word, if legalWord w = true then ∃ i, decode w = .ok i else decode w = .error (.invalidOpcode w)

/-- Words of the opcode map written out, one or more of each format, and two illegal neighbours (R96, R98; that `5121` and
`0123` are illegal is the spec's decision D3, log 15). -/
def Obligations.WordsWrittenOutDecode : Prop :=
  decode 0x00E0 = .ok .cls ∧ decode 0x00EE = .ok .ret ∧ decode 0x1206 = .ok (.jp 0x206) ∧
    decode 0x3571 = .ok (.seImm 5 0x71) ∧ decode 0x8374 = .ok (.addReg 3 7) ∧ decode 0x8476 = .ok (.shr 4 7) ∧
    decode 0xA2F0 = .ok (.ldI 0x2F0) ∧ decode 0xD01F = .ok (.drw 0 1 15) ∧ decode 0xE2A1 = .ok (.sknp 2) ∧
    decode 0xF233 = .ok (.ldBVx 2) ∧ decode 0x5121 = .error (.invalidOpcode 0x5121) ∧
    decode 0x0123 = .error (.invalidOpcode 0x0123)

/-! ## The step -/

/-- When the two bytes at `PC` (big-endian, whatever the parity of `PC`) decode to an instruction, the step is that
instruction's meaning with `PC` advanced by 2 and no error yet in this cycle (R67, R220, R221, R222; that an odd `PC`
fetches normally is the spec's decision D10, log 16; the ghost is log 2). -/
def Obligations.StepRunsDecodedInstruction : Prop :=
  ∀ (s : State) (i : Instr), s.pc.toNat ≤ 4094 →
    decode (BitVec.ofNat 16 ((s.readByte s.pc.toNat).toNat * 256 + (s.readByte (s.pc.toNat + 1)).toNat)) = .ok i →
    step s = exec i { s with pc := s.pc + 2, lastError := none }

/-- A fetch from 4095 or above raises `MemoryOutOfRange`; `PC` keeps its value (R66, R221, R286; raising, before the
advance, is the spec's decisions D6 and D9, log 12). -/
def Obligations.FetchOutsideMemoryIsAnError : Prop :=
  ∀ s : State, 4095 ≤ s.pc.toNat → ∃ t, step s = .next t ∧ ErrorTaken .memoryOutOfRange s t

/-- A fetched illegal word raises `InvalidOpcode`, with `PC` at the word's address plus 2 (R98, R222, R286; that `5xyN`,
`9xyN` with N other than 0 and `0nnn` are illegal is the spec's decision D3, log 15; an odd `PC` D10, log 16). -/
def Obligations.IllegalWordIsAnError : Prop :=
  ∀ s : State, s.pc.toNat ≤ 4094 → legalWord s.nextWord = false →
    ∃ t, step s = .next t ∧ t.pc = s.pc + 2 ∧ ErrorTaken .invalidOpcode (s.setPc t.pc) t

/-- Every `step()` and every `tick()` ends in a next state: no fault, no refusal, no error thrown; the host sees an error
as the answer Empty of `get_state()` (R292; that an error happened is read off the ghost, the model's choice of log 2). -/
def Obligations.StepAndTickAlwaysReturn : Prop :=
  ∀ s : State,
    (∃ t, step s = .next t ∧ (t.lastError ≠ none → answer .lifecycle t = .state .empty)) ∧
    ∃ t, tick s = .next t ∧ (s.lastError = none → t.lastError ≠ none → answer .lifecycle t = .state .empty)

/-- Which error a step ends with: exactly the table of error kinds (R280). The illegal words are the spec's decision D3
(log 15), depth and overflow D4 and D5 (log 11), the range conditions D6 to D9 (log 12), and the bound of `Dxyn` counts
the N + 1 rows of D29 (log 14). -/
def Obligations.ErrorKindsAreExactlyTheTable : Prop :=
  ∀ s t : State, step s = .next t →
    (t.lastError = some .invalidOpcode ↔ s.pc.toNat ≤ 4094 ∧ legalWord s.nextWord = false) ∧
    (t.lastError = some .stackUnderflow ↔ s.pc.toNat ≤ 4094 ∧ decode s.nextWord = .ok .ret ∧ s.sp = 0) ∧
    (t.lastError = some .stackOverflow ↔
      s.pc.toNat ≤ 4094 ∧ (∃ nnn, decode s.nextWord = .ok (.call nnn)) ∧ Config.stackDepth ≤ s.sp) ∧
    (t.lastError = some .memoryOutOfRange ↔
      4095 ≤ s.pc.toNat ∨
      (∃ x y n, decode s.nextWord = .ok (.drw x y n) ∧ 4096 ≤ s.i.toNat + n.toNat) ∨
      (∃ x, decode s.nextWord = .ok (.ldBVx x) ∧ 4096 ≤ s.i.toNat + 2) ∨
      (∃ x, decode s.nextWord = .ok (.ldMemVx x) ∧ 4096 ≤ s.i.toNat + x.toNat) ∨
      (∃ x, decode s.nextWord = .ok (.ldVxMem x) ∧ 4096 ≤ s.i.toNat + x.toNat))

/-- A failing cycle leaves no trace but the advance of `PC` (absent for a fetch error), the lifecycle state and the error
pattern (R281, R286, R287, R288). No partial effect is the spec's decision D8, the kept `PC` of a fetch error D9 (log 12),
the retained state D32 (log 19). -/
def Obligations.ErrorsArePrecise : Prop :=
  ∀ (s t : State) (e : ErrorKind), step s = .next t → t.lastError = some e →
    t.pc = (if 4095 ≤ s.pc.toNat then s.pc else s.pc + 2) ∧ ErrorTaken e (s.setPc t.pc) t

/-- Beyond the advance of `PC`, an instruction that raises no error writes only what the access tables give it: nothing
but Fx33 and Fx55 writes memory, nothing but 2nnn and 00EE the stack, nothing but six instructions `VF` implicitly, no
instruction a timer but Fx15 and Fx18, and so on (R21, R22, R23, R26, R32, R33, R34, R70). That `00E0` leaves
`frame_dirty` is the spec's decision D23 (log 20). -/
def Obligations.InstructionsWriteOnlyWhatTheTablesGive : Prop :=
  ∀ (i : Instr) (s t : State), s.lastError = none → exec i s = .next t → t.lastError = none →
    OnlyChanges (mayWrite s i) s t

/-- Neither a step nor a tick writes a host setting, the retained image or a parameter, and the lifecycle state changes
only by an error, to Empty (R220, R253, R300). -/
def Obligations.ProgramsCannotWriteHostSettings : Prop :=
  ∀ s t : State, step s = .next t ∨ tick s = .next t →
    (∀ c : Component, c.isHostSetting → c.same s t) ∧
      (t.lifecycle = s.lifecycle ∨ (t.lifecycle = .empty ∧ t.lastError ≠ none))

/-- A cycle never reads the lifecycle state, `cycles_per_frame`, the retained image or its size: with any other values
of them the step does the same to everything else and leaves them as they are, but for the Empty of an error (R220). -/
def Obligations.StepIgnoresLifecycleAndImage : Prop :=
  ∀ (s : State) (l : Lifecycle) (n : Nat) (image : List Byte) (loaded : Bool),
    ∃ t, step s = .next t ∧
      step { s with lifecycle := l, cyclesPerFrame := n, rom := image, programLoaded := loaded } =
        .next { t with
          lifecycle := if t.lastError = none then l else .empty
          cyclesPerFrame := n
          rom := image
          programLoaded := loaded }

/-- A step whose word is not `Cxnn` neither consumes a random byte nor depends on the random source (R152, R220). -/
def Obligations.OnlyRndUsesTheRandomSource : Prop :=
  ∀ (s : State) (input : List Byte) (draws : Nat), (∀ x nn, decode s.nextWord ≠ .ok (.rnd x nn)) →
    ∃ t, step s = .next t ∧ t.randomInput = s.randomInput ∧ t.randomDraws = s.randomDraws ∧
      step { s with randomInput := input, randomDraws := draws } =
        .next { t with randomInput := input, randomDraws := draws }

/-! ## Control flow -/

/-- `00EE`: `PC` gets the newest return address and the call stack loses it; with an empty stack `StackUnderflow` is
taken and `SP` and `PC` stay (R121; what the error leaves is the spec's decision D32). -/
def Obligations.ReturnPopsTheNewestAddress : Prop :=
  decode 0x00EE = .ok .ret ∧
  ∀ s : State,
    (∀ older a, callStackView s = older ++ [a] →
      ∃ t, exec .ret s = .next t ∧ t.pc = a ∧ callStackView t = older ∧
        OnlyChanges (fun c => c = .pc ∨ c = .stack) s t) ∧
    (s.sp = 0 → ∃ t, exec .ret s = .next t ∧ ErrorTaken .stackUnderflow s t)

/-- `1nnn`: `PC` gets NNN, whatever it is, and nothing else changes (R122). -/
def Obligations.JumpGoesToAddress : Prop :=
  ∀ (nnn : Addr12) (s : State), decode (BitVec.ofNat 16 (0x1000 + nnn.toNat)) = .ok (.jp nnn) ∧
    ∃ t, exec (.jp nnn) s = .next t ∧ t.pc.toNat = nnn.toNat ∧ OnlyChanges (· = .pc) s t

/-- `2nnn`: the advanced `PC` becomes the newest return address and `PC` gets NNN; with `STACK_DEPTH` active calls
`StackOverflow` is taken and nothing is pushed (R123; depth and overflow policy are the spec's decisions D4 and D5). -/
def Obligations.CallPushesReturnAddress : Prop :=
  ∀ (nnn : Addr12) (s : State), decode (BitVec.ofNat 16 (0x2000 + nnn.toNat)) = .ok (.call nnn) ∧
    (s.sp < Config.stackDepth →
      ∃ t, exec (.call nnn) s = .next t ∧ t.pc.toNat = nnn.toNat ∧ callStackView t = callStackView s ++ [s.pc] ∧
        OnlyChanges (fun c => c = .pc ∨ c = .stack) s t) ∧
    (Config.stackDepth ≤ s.sp → ∃ t, exec (.call nnn) s = .next t ∧ ErrorTaken .stackOverflow s t)

/-- `Bnnn`: `PC` gets NNN + V[0], not reduced modulo 4096 (R124). -/
def Obligations.JumpWithOffsetAddsRegisterZero : Prop :=
  ∀ (nnn : Addr12) (s : State), decode (BitVec.ofNat 16 (0xB000 + nnn.toNat)) = .ok (.jpV0 nnn) ∧
    ∃ t, exec (.jpV0 nnn) s = .next t ∧ t.pc.toNat = nnn.toNat + (s.reg 0).toNat ∧ OnlyChanges (· = .pc) s t

/-- `3xnn` and `4xnn`: skip when the register equals, or differs from, the immediate; nothing else changes, the flag
register included (R125, R126; that `PC` wraps at 65536, which no run reaches, is the spec's decision D34, log 16). -/
def Obligations.ImmediateSkipsCompareRegister : Prop :=
  ∀ (x : RegIdx) (nn : Byte) (s : State),
    decode (BitVec.ofNat 16 (0x3000 + 256 * x.toNat + nn.toNat)) = .ok (.seImm x nn) ∧
    decode (BitVec.ofNat 16 (0x4000 + 256 * x.toNat + nn.toNat)) = .ok (.sneImm x nn) ∧
    (∃ t, exec (.seImm x nn) s = .next t ∧ OnlyChanges (· = .pc) s t ∧
      t.pc.toNat = (s.pc.toNat + if (s.reg x).toNat = nn.toNat then 2 else 0) % 65536) ∧
    (∃ t, exec (.sneImm x nn) s = .next t ∧ OnlyChanges (· = .pc) s t ∧
      t.pc.toNat = (s.pc.toNat + if (s.reg x).toNat = nn.toNat then 0 else 2) % 65536)

/-- `5xy0` and `9xy0`: skip when the two registers are equal, or differ; nothing else changes (R127, R128; the wrap of `PC`
is the spec's decision D34, log 16). -/
def Obligations.RegisterSkipsCompareRegisters : Prop :=
  ∀ (x y : RegIdx) (s : State),
    decode (BitVec.ofNat 16 (0x5000 + 256 * x.toNat + 16 * y.toNat)) = .ok (.seReg x y) ∧
    decode (BitVec.ofNat 16 (0x9000 + 256 * x.toNat + 16 * y.toNat)) = .ok (.sneReg x y) ∧
    (∃ t, exec (.seReg x y) s = .next t ∧ OnlyChanges (· = .pc) s t ∧
      t.pc.toNat = (s.pc.toNat + if (s.reg x).toNat = (s.reg y).toNat then 2 else 0) % 65536) ∧
    (∃ t, exec (.sneReg x y) s = .next t ∧ OnlyChanges (· = .pc) s t ∧
      t.pc.toNat = (s.pc.toNat + if (s.reg x).toNat = (s.reg y).toNat then 0 else 2) % 65536)

/-! ## Registers, arithmetic, logic, shifts, random -/

/-- `6xnn`: `V[x]` gets NN; with X = F this is `VF` like any register (R141). -/
def Obligations.LoadImmediateSetsRegister : Prop :=
  ∀ (x : RegIdx) (nn : Byte) (s : State),
    decode (BitVec.ofNat 16 (0x6000 + 256 * x.toNat + nn.toNat)) = .ok (.ldImm x nn) ∧
    ∃ t, exec (.ldImm x nn) s = .next t ∧ t.reg x = nn ∧ OnlyChanges (· = .reg x) s t

/-- `7xnn`: `V[x]` gets `(V[x] + NN) mod 256`; `VF` is not written as a flag (R142). -/
def Obligations.AddImmediateWrapsWithoutFlag : Prop :=
  ∀ (x : RegIdx) (nn : Byte) (s : State),
    decode (BitVec.ofNat 16 (0x7000 + 256 * x.toNat + nn.toNat)) = .ok (.addImm x nn) ∧
    ∃ t, exec (.addImm x nn) s = .next t ∧ (t.reg x).toNat = ((s.reg x).toNat + nn.toNat) % 256 ∧
      OnlyChanges (· = .reg x) s t

/-- `8xy0`: `V[x]` gets `V[y]` (R143). -/
def Obligations.CopyRegister : Prop :=
  ∀ (x y : RegIdx) (s : State),
    decode (BitVec.ofNat 16 (0x8000 + 256 * x.toNat + 16 * y.toNat)) = .ok (.ldReg x y) ∧
    ∃ t, exec (.ldReg x y) s = .next t ∧ t.reg x = s.reg y ∧ OnlyChanges (· = .reg x) s t

/-- `8xy1`, `8xy2`, `8xy3`: bitwise or, and, exclusive or, bit by bit; `VF` is not written as a flag (R144, R145, R146). -/
def Obligations.LogicWorksBitByBitWithoutFlag : Prop :=
  ∀ (x y : RegIdx) (s : State),
    decode (BitVec.ofNat 16 (0x8001 + 256 * x.toNat + 16 * y.toNat)) = .ok (.orReg x y) ∧
    decode (BitVec.ofNat 16 (0x8002 + 256 * x.toNat + 16 * y.toNat)) = .ok (.andReg x y) ∧
    decode (BitVec.ofNat 16 (0x8003 + 256 * x.toNat + 16 * y.toNat)) = .ok (.xorReg x y) ∧
    (∃ t, exec (.orReg x y) s = .next t ∧ OnlyChanges (· = .reg x) s t ∧
      ∀ b, (t.reg x).getLsbD b = ((s.reg x).getLsbD b || (s.reg y).getLsbD b)) ∧
    (∃ t, exec (.andReg x y) s = .next t ∧ OnlyChanges (· = .reg x) s t ∧
      ∀ b, (t.reg x).getLsbD b = ((s.reg x).getLsbD b && (s.reg y).getLsbD b)) ∧
    (∃ t, exec (.xorReg x y) s = .next t ∧ OnlyChanges (· = .reg x) s t ∧
      ∀ b, (t.reg x).getLsbD b = ((s.reg x).getLsbD b ^^ (s.reg y).getLsbD b))

/-- `8xy4`: `V[x]` gets the low byte of the sum and `VF` the carry; with X = F the sum is what stays in `VF`
(R147; the order of the two writes, R140, is the spec's decision D2). -/
def Obligations.AddSetsCarryThenSum : Prop :=
  ∀ (x y : RegIdx) (s : State),
    decode (BitVec.ofNat 16 (0x8004 + 256 * x.toNat + 16 * y.toNat)) = .ok (.addReg x y) ∧
    ∃ t, exec (.addReg x y) s = .next t ∧ OnlyChanges (fun c => c = .reg x ∨ c = .reg regF) s t ∧
      (t.reg x).toNat = ((s.reg x).toNat + (s.reg y).toNat) % 256 ∧
      (x ≠ regF → (t.reg regF).toNat = if (s.reg x).toNat + (s.reg y).toNat > 255 then 1 else 0)

/-- `8xy5`: `VF` gets the not-borrow flag, then `V[x]` the difference of the registers as they are after that write, so
an operand that is `VF` reads the new flag (R149; that order, R140, is the spec's decision D2). -/
def Obligations.SubtractSetsNotBorrowThenDifference : Prop :=
  ∀ (x y : RegIdx) (s : State),
    decode (BitVec.ofNat 16 (0x8005 + 256 * x.toNat + 16 * y.toNat)) = .ok (.subReg x y) ∧
    ∃ t, exec (.subReg x y) s = .next t ∧ OnlyChanges (fun c => c = .reg x ∨ c = .reg regF) s t ∧
      ∀ f : Nat, f = (if (s.reg x).toNat ≥ (s.reg y).toNat then 1 else 0) →
        (t.reg x).toNat =
          ((if x = regF then f else (s.reg x).toNat) + 256 - (if y = regF then f else (s.reg y).toNat)) % 256 ∧
        (x ≠ regF → (t.reg regF).toNat = f)

/-- `8xy7`: as `8xy5` with the operands exchanged (R151; the order of the writes, R140, is the spec's decision D2). -/
def Obligations.ReverseSubtractSetsNotBorrowThenDifference : Prop :=
  ∀ (x y : RegIdx) (s : State),
    decode (BitVec.ofNat 16 (0x8007 + 256 * x.toNat + 16 * y.toNat)) = .ok (.subnReg x y) ∧
    ∃ t, exec (.subnReg x y) s = .next t ∧ OnlyChanges (fun c => c = .reg x ∨ c = .reg regF) s t ∧
      ∀ f : Nat, f = (if (s.reg y).toNat ≥ (s.reg x).toNat then 1 else 0) →
        (t.reg x).toNat =
          ((if y = regF then f else (s.reg y).toNat) + 256 - (if x = regF then f else (s.reg x).toNat)) % 256 ∧
        (x ≠ regF → (t.reg regF).toNat = f)

/-- `8xy6` and `8xyE`: the target is `V[y]` in quirk mode and `V[x]` otherwise; `V[x]` gets it shifted by one bit and
`VF` the bit shifted out, unless X = F (R148, R150; the order of the writes, R140, is the spec's decision D2). -/
def Obligations.ShiftsMoveTargetByOneBit : Prop :=
  ∀ (x y : RegIdx) (s : State),
    decode (BitVec.ofNat 16 (0x8006 + 256 * x.toNat + 16 * y.toNat)) = .ok (.shr x y) ∧
    decode (BitVec.ofNat 16 (0x800E + 256 * x.toNat + 16 * y.toNat)) = .ok (.shl x y) ∧
    ∀ target : Nat, target = (if s.shiftQuirk then (s.reg y).toNat else (s.reg x).toNat) →
      (∃ t, exec (.shr x y) s = .next t ∧ OnlyChanges (fun c => c = .reg x ∨ c = .reg regF) s t ∧
        (t.reg x).toNat = target / 2 ∧ (x ≠ regF → (t.reg regF).toNat = target % 2)) ∧
      (∃ t, exec (.shl x y) s = .next t ∧ OnlyChanges (fun c => c = .reg x ∨ c = .reg regF) s t ∧
        (t.reg x).toNat = 2 * target % 256 ∧ (x ≠ regF → (t.reg regF).toNat = target / 128))

/-- `Cxnn`: one random byte is consumed, also with mask 0, and `V[x]` gets it under the mask: the first injected byte, or
else a free value that nothing constrains (R152, R153; how the byte is supplied is the model's choice, log 3). -/
def Obligations.RandomByteIsMaskedAndConsumed : Prop :=
  ∀ (x : RegIdx) (nn : Byte) (s : State),
    decode (BitVec.ofNat 16 (0xC000 + 256 * x.toNat + nn.toNat)) = .ok (.rnd x nn) ∧
    ∃ t, exec (.rnd x nn) s = .next t ∧ t.reg x = s.nextRandom &&& nn ∧
      (∀ b rest, s.randomInput = b :: rest → t.reg x = b &&& nn ∧ t.randomInput = rest) ∧
      (∀ k, nn.getLsbD k = false → (t.reg x).getLsbD k = false) ∧ t.randomDraws = s.randomDraws + 1 ∧
      OnlyChanges (fun c => c = .reg x ∨ c = .random) s t

/-! ## Index register and memory -/

/-- `Annn`: `I` gets NNN (R161). -/
def Obligations.LoadIndexSetsIndex : Prop :=
  ∀ (nnn : Addr12) (s : State), decode (BitVec.ofNat 16 (0xA000 + nnn.toNat)) = .ok (.ldI nnn) ∧
    ∃ t, exec (.ldI nnn) s = .next t ∧ t.i.toNat = nnn.toNat ∧ OnlyChanges (· = .index) s t

/-- `Fx1E`: `I` gets `(I + V[x]) mod 65536`; `VF` is not written (R162; the 16-bit wrap is the spec's decision D34, R23,
log 16). -/
def Obligations.AddToIndexWrapsWithoutFlag : Prop :=
  ∀ (x : RegIdx) (s : State), decode (BitVec.ofNat 16 (0xF01E + 256 * x.toNat)) = .ok (.addIVx x) ∧
    ∃ t, exec (.addIVx x) s = .next t ∧ t.i.toNat = (s.i.toNat + (s.reg x).toNat) % 65536 ∧
      OnlyChanges (· = .index) s t

/-- `Fx29`: `I` gets five times the low nibble of `V[x]`; no memory is touched (R163). -/
def Obligations.FontAddressIsFiveTimesDigit : Prop :=
  ∀ (x : RegIdx) (s : State), decode (BitVec.ofNat 16 (0xF029 + 256 * x.toNat)) = .ok (.ldFVx x) ∧
    ∃ t, exec (.ldFVx x) s = .next t ∧ t.i.toNat = 5 * ((s.reg x).toNat % 16) ∧ OnlyChanges (· = .index) s t

/-- `Fx33`: the decimal digits of `V[x]` go to `I`, `I+1`, `I+2` and nothing else changes; when `I+2` is 4096 or more
`MemoryOutOfRange` is taken and no byte is written (R165; raising, and with no partial effect, is the spec's decisions
D6 to D8). -/
def Obligations.DecimalDigitsAreStored : Prop :=
  ∀ (x : RegIdx) (s : State), decode (BitVec.ofNat 16 (0xF033 + 256 * x.toNat)) = .ok (.ldBVx x) ∧
    (s.dataAddr + 2 < 4096 →
      ∃ t, exec (.ldBVx x) s = .next t ∧ (t.readByte s.dataAddr).toNat = (s.reg x).toNat / 100 ∧
        (t.readByte (s.dataAddr + 1)).toNat = (s.reg x).toNat / 10 % 10 ∧
        (t.readByte (s.dataAddr + 2)).toNat = (s.reg x).toNat % 10 ∧
        OnlyChanges (Component.isMemoryAt s.dataAddr 3) s t) ∧
    (4096 ≤ s.dataAddr + 2 → ∃ t, exec (.ldBVx x) s = .next t ∧ ErrorTaken .memoryOutOfRange s t)

/-- `Fx55`: `V[0..x]` go to `I .. I+x` and `I` advances by x+1; when `I+x` is 4096 or more `MemoryOutOfRange` is taken,
nothing is stored and `I` stays (R166; the error clause is the spec's decisions D6 to D8, the wrap of `I` D34). -/
def Obligations.RegistersAreStored : Prop :=
  ∀ (x : RegIdx) (s : State), decode (BitVec.ofNat 16 (0xF055 + 256 * x.toNat)) = .ok (.ldMemVx x) ∧
    (s.dataAddr + x.toNat < 4096 →
      ∃ t, exec (.ldMemVx x) s = .next t ∧
        (∀ r : RegIdx, r.toNat ≤ x.toNat → t.readByte (s.dataAddr + r.toNat) = s.reg r) ∧
        t.i.toNat = (s.i.toNat + x.toNat + 1) % 65536 ∧
        OnlyChanges (fun c => c.isMemoryAt s.dataAddr (x.toNat + 1) ∨ c = .index) s t) ∧
    (4096 ≤ s.dataAddr + x.toNat → ∃ t, exec (.ldMemVx x) s = .next t ∧ ErrorTaken .memoryOutOfRange s t)

/-- `Fx65`: `V[0..x]` get the bytes at `I .. I+x`, the registers above keep their values, and `I` advances by x+1; when
`I+x` is 4096 or more `MemoryOutOfRange` is taken and no register changes (R167; the error clause is the spec's decisions
D6 to D8, the wrap of `I` D34). -/
def Obligations.RegistersAreLoaded : Prop :=
  ∀ (x : RegIdx) (s : State), decode (BitVec.ofNat 16 (0xF065 + 256 * x.toNat)) = .ok (.ldVxMem x) ∧
    (s.dataAddr + x.toNat < 4096 →
      ∃ t, exec (.ldVxMem x) s = .next t ∧
        (∀ r : RegIdx, r.toNat ≤ x.toNat → t.reg r = s.readByte (s.dataAddr + r.toNat)) ∧
        t.i.toNat = (s.i.toNat + x.toNat + 1) % 65536 ∧
        OnlyChanges (fun c => c.isRegUpTo x ∨ c = .index) s t) ∧
    (4096 ≤ s.dataAddr + x.toNat → ∃ t, exec (.ldVxMem x) s = .next t ∧ ErrorTaken .memoryOutOfRange s t)

/-- Registers stored by `Fx55` come back by `Fx65` from the same `I`, whatever happened in between to everything but
memory and `I` (R167: "`Fx55` followed by `Ay..` back to the same address and `Fx65` restores the registers"). -/
def Obligations.LoadRestoresStoredRegisters : Prop :=
  ∀ (x : RegIdx) (s t s' : State), s.dataAddr + x.toNat < 4096 → exec (.ldMemVx x) s = .next t →
    s'.mem = t.mem → s'.params = t.params → s'.i = s.i →
    ∃ u, exec (.ldVxMem x) s' = .next u ∧ ∀ r : RegIdx, r.toNat ≤ x.toNat → u.reg r = s.reg r

/-- A store of `Fx33` or `Fx55` is seen by the very next fetch: the word at `PC` is read from the stored bytes where they
cover one or both of its two bytes, and from memory as before elsewhere, high byte first; self-modifying code takes effect
at once (R62, R75, R165, R166). The premise that the store is in range is the spec's decisions D6 and D7 (log 12), a fetch
at an odd `PC` D10 (log 16). -/
def Obligations.NextFetchSeesStore : Prop :=
  ∀ (x : RegIdx) (s : State), s.pc.toNat ≤ 4094 →
    (s.dataAddr + 2 < 4096 →
      ∃ t, exec (.ldBVx x) s = .next t ∧ t.pc = s.pc ∧
        t.fetch = some (s.wordAfterStore s.dataAddr 3 fun k => BitVec.ofNat 8 ((s.reg x).toNat / 10 ^ (2 - k) % 10))) ∧
    (s.dataAddr + x.toNat < 4096 →
      ∃ t, exec (.ldMemVx x) s = .next t ∧ t.pc = s.pc ∧
        t.fetch = some (s.wordAfterStore s.dataAddr (x.toNat + 1) fun k => s.reg (BitVec.ofNat 4 k)))

/-! ## Display -/

/-- `00E0`: every pixel is dark and nothing else changes (R180; that `frame_dirty` is not set is the spec's decision D23). -/
def Obligations.ClearMakesEveryPixelDark : Prop :=
  decode 0x00E0 = .ok .cls ∧
  ∀ s : State, ∃ t, exec .cls s = .next t ∧ (∀ px py, pixel t.disp px py = false) ∧
    OnlyChanges Component.isDisplay s t

/-- `Dxyn`: with the sprite inside memory it draws, sets `frame_dirty`, writes 0 or 1 to `VF` and touches no display byte
outside its rows and two byte columns; otherwise `MemoryOutOfRange` is taken before anything is drawn (R182; the row
count N + `SPRITE_ROW_BIAS` is the spec's decision D29, the error clause D6 and D8). -/
def Obligations.DrawTouchesOnlyItsRows : Prop :=
  ∀ (x y : RegIdx) (n : BitVec 4) (s : State),
    decode (BitVec.ofNat 16 (0xD000 + 256 * x.toNat + 16 * y.toNat + n.toNat)) = .ok (.drw x y n) ∧
    (s.dataAddr + n.toNat < 4096 →
      ∃ t, exec (.drw x y n) s = .next t ∧ t.frameDirty = true ∧ (t.reg regF = 0 ∨ t.reg regF = 1) ∧
        OnlyChanges (fun c => c = .reg regF ∨ c = .frameDirty ∨ ∃ k, spriteTouches s x y n k ∧ c = .display k) s t) ∧
    (4096 ≤ s.dataAddr + n.toNat → ∃ t, exec (.drw x y n) s = .next t ∧ ErrorTaken .memoryOutOfRange s t)

/-- `Dxyn` pixel by pixel: every pixel under a set sprite pixel is complemented, every other pixel stays, and `VF` is 1
exactly when a complemented pixel was lit before (R183, which the spec derives from R182; wraps on both axes). The rows,
N + 1 of them, and with them the range premise, are the spec's decision D29 (log 14); that the origin is read from the
registers before `VF` is written is D2 (log 13). -/
def Obligations.DrawComplementsPixelsUnderSprite : Prop :=
  ∀ (x y : RegIdx) (n : BitVec 4) (s : State), s.dataAddr + n.toNat < 4096 →
    ∃ t, exec (.drw x y n) s = .next t ∧
      (∀ px py, px < 64 → py < 32 →
        (spriteSets s x y n px py → pixel t.disp px py = !pixel s.disp px py) ∧
        (¬ spriteSets s x y n px py → pixel t.disp px py = pixel s.disp px py)) ∧
      (t.reg regF = 1 ↔ ∃ px py, px < 64 ∧ py < 32 ∧ spriteSets s x y n px py ∧ pixel s.disp px py = true) ∧
      (t.reg regF = 1 ∨ t.reg regF = 0)

/-- Drawing the same sprite twice at the same place restores the display exactly, and the second draw's `VF` is 1 exactly
when some sprite pixel was dark before the first (R184). The second origin is assumed to be the first, which can fail only
when X or Y is F. The N + 1 rows and the range premise are the spec's decision D29 (log 14), the origin from the old `VF`
D2 (log 13). -/
def Obligations.DrawingTwiceRestoresDisplay : Prop :=
  ∀ (x y : RegIdx) (n : BitVec 4) (s t : State), s.dataAddr + n.toNat < 4096 → exec (.drw x y n) s = .next t →
    t.originX x = s.originX x → t.originY y = s.originY y →
    ∃ u, exec (.drw x y n) t = .next u ∧ u.disp = s.disp ∧
      (u.reg regF = 1 ↔ ∃ px py, px < 64 ∧ py < 32 ∧ spriteSets s x y n px py ∧ pixel s.disp px py = false)

/-! ## Keypad and timers -/

/-- `Ex9E` and `ExA1`: skip when the key selected by the low nibble of `V[x]` is pressed, or is not; the latch is not
changed (R200, R201; the wrap of `PC` at 65536 is the spec's decision D34, log 16). -/
def Obligations.KeySkipsReadTheLatch : Prop :=
  ∀ (x : RegIdx) (s : State) (k : BitVec 4), k.toNat = (s.reg x).toNat % 16 →
    decode (BitVec.ofNat 16 (0xE09E + 256 * x.toNat)) = .ok (.skp x) ∧
    decode (BitVec.ofNat 16 (0xE0A1 + 256 * x.toNat)) = .ok (.sknp x) ∧
    (∃ t, exec (.skp x) s = .next t ∧ OnlyChanges (· = .pc) s t ∧
      t.pc.toNat = (s.pc.toNat + if s.key k then 2 else 0) % 65536) ∧
    (∃ t, exec (.sknp x) s = .next t ∧ OnlyChanges (· = .pc) s t ∧
      t.pc.toNat = (s.pc.toNat + if s.key k then 0 else 2) % 65536)

/-- `Fx0A`: the lowest pressed key goes to `V[x]` and only its latch is cleared; with no key pressed `PC` goes back by 2 and
nothing else changes (R202; the wrap of `PC` at 65536 is the spec's decision D34, log 16). -/
def Obligations.WaitForKeyTakesLowestKey : Prop :=
  ∀ (x : RegIdx) (s : State), decode (BitVec.ofNat 16 (0xF00A + 256 * x.toNat)) = .ok (.ldVxK x) ∧
    (∀ k, s.key k = true → (∀ j, j < k → s.key j = false) →
      ∃ t, exec (.ldVxK x) s = .next t ∧ (t.reg x).toNat = k.toNat ∧ t.key k = false ∧
        OnlyChanges (fun c => c = .reg x ∨ c = .key k) s t) ∧
    ((∀ k, s.key k = false) →
      ∃ t, exec (.ldVxK x) s = .next t ∧ t.pc.toNat = (s.pc.toNat + 65534) % 65536 ∧ OnlyChanges (· = .pc) s t)

/-- `Fx07`, `Fx15`, `Fx18`: the delay timer is read into `V[x]`, `V[x]` is written to the delay timer, to the sound timer;
the sound is active exactly when a non-zero value was written (R203, R204, R205). -/
def Obligations.TimersAreReadAndSet : Prop :=
  ∀ (x : RegIdx) (s : State),
    decode (BitVec.ofNat 16 (0xF007 + 256 * x.toNat)) = .ok (.ldVxDt x) ∧
    decode (BitVec.ofNat 16 (0xF015 + 256 * x.toNat)) = .ok (.ldDtVx x) ∧
    decode (BitVec.ofNat 16 (0xF018 + 256 * x.toNat)) = .ok (.ldStVx x) ∧
    (∃ t, exec (.ldVxDt x) s = .next t ∧ t.reg x = s.dt ∧ OnlyChanges (· = .reg x) s t) ∧
    (∃ t, exec (.ldDtVx x) s = .next t ∧ t.dt = s.reg x ∧ OnlyChanges (· = .delay) s t) ∧
    (∃ t, exec (.ldStVx x) s = .next t ∧ t.st = s.reg x ∧ OnlyChanges (· = .sound) s t ∧
      (isSoundActive t = true ↔ (s.reg x).toNat ≠ 0))

/-! ## Host commands -/

/-- `load(bytes)`: the whole of memory, the registers, stack, timers and display are rebuilt, the image is retained, the
lifecycle state is Reset; keys and configuration stay (R43, R241). Memory outside the program is the spec's decision D12,
the retained image D13, the kept keys D15, the kept quirk mode and speed D16, `I` D30 (log 17), the cleared `frame_dirty`
D23 (log 20). -/
def Obligations.LoadRebuildsTheMachine : Prop :=
  ∀ (bytes : List Byte) (s : State), bytes.length ≤ 3584 →
    ∃ t, command (.load bytes) s = .next t ∧
      (∀ (a : Nat) (h : a < 80), t.readByte a = s.params.font[a]) ∧
      (∀ a, 80 ≤ a → a < 512 → t.readByte a = 0) ∧
      (∀ (k : Nat) (h : k < bytes.length), t.readByte (512 + k) = bytes[k]) ∧
      (∀ a, 512 + bytes.length ≤ a → a < 4096 → t.readByte a = 0) ∧
      (∀ x, t.reg x = 0) ∧ t.i = 0 ∧ t.pc.toNat = 512 ∧ t.sp = 0 ∧ t.dt = 0 ∧ t.st = 0 ∧
      (∀ px py, pixel t.disp px py = false) ∧ t.frameDirty = false ∧ t.lifecycle = .reset ∧
      t.programLoaded = true ∧ t.rom = bytes ∧ programSize t = bytes.length ∧
      t.keys = s.keys ∧ t.shiftQuirk = s.shiftQuirk ∧ t.cyclesPerFrame = s.cyclesPerFrame ∧ t.params = s.params

/-- `load` of more than 3584 bytes, `set_key` with an index above 15 and a negative `cycles_per_frame` are refused by name,
and every other command is accepted, in every lifecycle state (R242, R245, R247, R253; refusing and accepting are the
spec's decisions D14, D24 and D25, log 18). -/
def Obligations.OnlyOutOfRangeCommandsAreRefused : Prop :=
  ∀ (c : Command) (s : State),
    match c with
    | .load bytes =>
      if bytes.length ≤ 3584 then ∃ t, command (.load bytes) s = .next t
      else command (.load bytes) s = .refused (.programTooLarge bytes.length)
    | .resetToStart => ∃ t, command .resetToStart s = .next t
    | .toggle => ∃ t, command .toggle s = .next t
    | .step => ∃ t, command .step s = .next t
    | .tick => ∃ t, command .tick s = .next t
    | .setKey k b =>
      if k ≤ 15 then ∃ t, command (.setKey k b) s = .next t
      else command (.setKey k b) s = .refused (.keyIndexOutOfRange k)
    | .setShiftQuirkMode b => ∃ t, command (.setShiftQuirkMode b) s = .next t
    | .setCyclesPerFrame n =>
      if 0 ≤ n then ∃ t, command (.setCyclesPerFrame n) s = .next t
      else command (.setCyclesPerFrame n) s = .refused (.negativeCyclesPerFrame n)

/-- `set_key`, `set_shift_quirk_mode` and setting `cycles_per_frame` write what they name and nothing else (R245, R246,
R247). -/
def Obligations.SettingsWriteOnlyWhatTheyName : Prop :=
  ∀ s : State,
    (∀ (k : BitVec 4) (b : Bool), ∃ t, command (.setKey k.toNat b) s = .next t ∧ t.key k = b ∧
      OnlyChanges (· = .key k) s t) ∧
    (∀ b : Bool, ∃ t, command (.setShiftQuirkMode b) s = .next t ∧ t.shiftQuirk = b ∧
      OnlyChanges (· = .shiftQuirk) s t) ∧
    (∀ n : Nat, ∃ t, command (.setCyclesPerFrame n) s = .next t ∧ t.cyclesPerFrame = n ∧
      OnlyChanges (· = .cyclesPerFrame) s t)

/-- `reset_to_start()` with no program loaded changes nothing; after a `load` and any further commands without another one
it gives the state right after that `load`, but for the keys and the configuration, which keep their current values, and
for the random source (R243). That the image is retained is the spec's decision D13 and that memory is rebuilt D12, that
keys and configuration are kept D15 and D16 (log 17); the random source is log 3. -/
def Obligations.ResetToStartRestoresLoadedState : Prop :=
  (∀ s : State, s.programLoaded = false → command .resetToStart s = .next s) ∧
  ∀ (bytes : List Byte) (s t u : State) (cs : List Command),
    command (.load bytes) s = .next t → (∀ c ∈ cs, ∀ image, c ≠ .load image) → runCommands cs t = .next u →
    command .resetToStart u = .next { t with
      keys := u.keys
      shiftQuirk := u.shiftQuirk
      cyclesPerFrame := u.cyclesPerFrame
      randomInput := u.randomInput
      randomDraws := u.randomDraws }

/-- The lifecycle transitions of every command (R244, R253): `load` and, with a program, `reset_to_start` give Reset;
`toggle` pauses, resumes and starts; a failing cycle gives Empty; nothing else changes the lifecycle state. That every
command is legal in every state is the spec's decision D14 (log 18). (A Running machine has no error recorded: Inv,
log 2.) -/
def Obligations.LifecycleFollowsTheTable : Prop :=
  ∀ (c : Command) (s t : State), command c s = .next t →
    match c with
    | .load _ => t.lifecycle = .reset
    | .resetToStart => t.lifecycle = if s.programLoaded then .reset else s.lifecycle
    | .toggle =>
      t.lifecycle =
        match s.lifecycle with
        | .empty => .empty
        | .reset => .running
        | .running => .paused
        | .paused => .running
    | .step => t.lifecycle = if t.lastError = none then s.lifecycle else .empty
    | .tick =>
      if s.lifecycle = .running then
        s.lastError = none → t.lifecycle = if t.lastError = none then .running else .empty
      else t.lifecycle = s.lifecycle
    | .setKey _ _ => t.lifecycle = s.lifecycle
    | .setShiftQuirkMode _ => t.lifecycle = s.lifecycle
    | .setCyclesPerFrame _ => t.lifecycle = s.lifecycle

/-- `toggle()` changes only the lifecycle state, and from Reset also clears the display (R244; that nothing else is reset is
the spec's decision D31). -/
def Obligations.ToggleClearsDisplayOnlyFromReset : Prop :=
  ∀ s : State, ∃ t, command .toggle s = .next t ∧
    OnlyChanges (fun c => c = .lifecycle ∨ (s.lifecycle = .reset ∧ c.isDisplay)) s t ∧
    (s.lifecycle = .reset → ∀ px py, pixel t.disp px py = false)

/-- No sequence of `toggle()` and `tick()` changes anything in state Empty, so none leaves the error state (R254). -/
def Obligations.TogglesAndTicksCannotLeaveEmpty : Prop :=
  ∀ (cs : List Command) (s : State), (∀ c ∈ cs, c = .toggle ∨ c = .tick) → s.lifecycle = .empty →
    runCommands cs s = .next s

/-- A `tick()` in any state but Running changes nothing at all (R226). -/
def Obligations.TickDoesNothingUnlessRunning : Prop :=
  ∀ s : State, s.lifecycle ≠ .running → command .tick s = .next s

/-- A Running `tick()` decrements each timer once, floored at 0, and then runs cycles one after another: exactly
`cycles_per_frame` of them, or fewer when one fails, which is then the last (R226, R227, R228). -/
def Obligations.TickDecrementsThenRunsBatch : Prop :=
  ∀ s : State, s.lifecycle = .running →
    ∃ (u : Nat → State) (k : Nat), command .tick s = .next (u k) ∧ k ≤ s.cyclesPerFrame ∧
      (u 0).dt.toNat = s.dt.toNat - 1 ∧ (u 0).st.toNat = s.st.toNat - 1 ∧
      OnlyChanges (fun c => c = .delay ∨ c = .sound) s (u 0) ∧
      (∀ j, j < k → step (u j) = .next (u (j + 1))) ∧
      (∀ j, 0 < j → j < k → (u j).lastError = none) ∧
      (k < s.cyclesPerFrame → 0 < k ∧ (u k).lastError ≠ none)

/-- The display as the host sees it: the packed view is the buffer, element py*64+px of the expanded view is 1 exactly
when the pixel is lit and else 0; the sound is active exactly when `ST` is not 0 (R187, R249; the element order and the
values of the expanded view are the spec's decision D27). -/
def Obligations.ViewsShowDisplayAndSound : Prop :=
  ∀ s : State,
    (displayPacked s).length = 256 ∧ (∀ k : Fin 256, (displayPacked s)[k.val]? = some s.disp[k]) ∧
    (displayExpanded s).length = 2048 ∧
    (∀ px py, px < 64 → py < 32 →
      (displayExpanded s)[py * 64 + px]? = some (if pixel s.disp px py then 1 else 0)) ∧
    (isSoundActive s = true ↔ s.st.toNat ≠ 0)

/-! ## Reset and invariants -/

/-- After power-on: the font at 0..79 and zeros above it, registers, `I`, stack, timers and display zero, `PC` = 512, no key
pressed, Empty, no program (R42, R43; font, `PC` and Empty are the source's, the rest is the spec's decisions D11, D13,
D16 and D23). -/
def Obligations.PowerOnStateIsTheTable : Prop :=
  (∀ (a : Nat) (h : a < 80), State.reset.readByte a = State.reset.params.font[a]) ∧
    (∀ a, 80 ≤ a → a < 4096 → State.reset.readByte a = 0) ∧ (∀ x, State.reset.reg x = 0) ∧
    State.reset.i = 0 ∧ State.reset.pc.toNat = 512 ∧ State.reset.sp = 0 ∧ State.reset.dt = 0 ∧ State.reset.st = 0 ∧
    (∀ px py, pixel State.reset.disp px py = false) ∧ (∀ k, State.reset.key k = false) ∧
    State.reset.lifecycle = .empty ∧ State.reset.shiftQuirk = false ∧ State.reset.programLoaded = false ∧
    State.reset.rom = [] ∧ State.reset.frameDirty = false

/-- The invariant holds after power-on (R44). -/
def Obligations.InvariantHoldsAtReset : Prop := Inv State.reset

/-- Every step keeps the invariant: memory canonical and inside 4096 bytes, stack depth and return addresses in range,
`PC` at most 4350, image size, lifecycle, and what the error state shows (R25, R44, R254, which the spec derives). The
depth 16 is the spec's decision D4 with D5 (log 11), the memory form the model's choice of log 8, the ghost log 2. -/
def Obligations.StepKeepsInvariant : Prop :=
  ∀ s t : State, Inv s → step s = .next t → Inv t

/-- Every run of host commands keeps the invariant, whatever the host sends (R44, R255; that an oversized `load` is refused
is the spec's decision D24, log 18; depth and memory form as for the step). -/
def Obligations.HostRunsKeepInvariant : Prop :=
  ∀ (cs : List Command) (s t : State), Inv s → runCommands cs s = .next t → Inv t
end

