-- ==== Sys2Proof/Laws/Decode.lean ====
section
/-! SUPPORT. The formats of R92: their numeric value, their fields (R91), and the masks of R95 on them. -/

namespace Sys2Proof

/-! The numeric value of a format. -/

theorem toNat_append_eq {m n : Nat} (a : BitVec m) (b : BitVec n) : (a ++ b).toNat = a.toNat * 2 ^ n + b.toNat := by
  rw [BitVec.toNat_append, ← Nat.shiftLeft_add_eq_or_of_lt b.isLt, Nat.shiftLeft_eq]

theorem formatA_eq_ofNat (op : BitVec 4) (nnn : Addr12) :
    formatA op nnn = BitVec.ofNat 16 (4096 * op.toNat + nnn.toNat) := by
  apply BitVec.eq_of_toNat_eq
  have := op.isLt
  have := nnn.isLt
  rw [formatA, toNat_append_eq, BitVec.toNat_ofNat]
  omega

theorem formatI_eq_ofNat (op : BitVec 4) (x : RegIdx) (nn : Byte) :
    formatI op x nn = BitVec.ofNat 16 (4096 * op.toNat + 256 * x.toNat + nn.toNat) := by
  apply BitVec.eq_of_toNat_eq
  have := op.isLt
  have := x.isLt
  have := nn.isLt
  rw [formatI, toNat_append_eq, toNat_append_eq, BitVec.toNat_ofNat]
  omega

theorem formatR_eq_ofNat (op : BitVec 4) (x y : RegIdx) (n : BitVec 4) :
    formatR op x y n = BitVec.ofNat 16 (4096 * op.toNat + 256 * x.toNat + 16 * y.toNat + n.toNat) := by
  apply BitVec.eq_of_toNat_eq
  have := op.isLt
  have := x.isLt
  have := y.isLt
  have := n.isLt
  rw [formatR, toNat_append_eq, toNat_append_eq, toNat_append_eq, BitVec.toNat_ofNat]
  omega

/-! The fields of a word are digits of its number. -/

theorem opOf_toNat (w : Word) : (opOf w).toNat = w.toNat / 4096 := by
  have := w.isLt
  simp only [opOf, BitVec.extractLsb'_toNat, Nat.shiftRight_eq_div_pow]
  omega

theorem xOf_toNat (w : Word) : (xOf w).toNat = w.toNat / 256 % 16 := by
  simp only [xOf, BitVec.extractLsb'_toNat, Nat.shiftRight_eq_div_pow]

theorem yOf_toNat (w : Word) : (yOf w).toNat = w.toNat / 16 % 16 := by
  simp only [yOf, BitVec.extractLsb'_toNat, Nat.shiftRight_eq_div_pow]

theorem nOf_toNat (w : Word) : (nOf w).toNat = w.toNat % 16 := by
  simp only [nOf, BitVec.extractLsb'_toNat, Nat.shiftRight_eq_div_pow]
  omega

theorem nnOf_toNat (w : Word) : (nnOf w).toNat = w.toNat % 256 := by
  simp only [nnOf, BitVec.extractLsb'_toNat, Nat.shiftRight_eq_div_pow]
  omega

theorem nnnOf_toNat (w : Word) : (nnnOf w).toNat = w.toNat % 4096 := by
  simp only [nnnOf, BitVec.extractLsb'_toNat, Nat.shiftRight_eq_div_pow]
  omega

/-- A word is its four nibbles. -/
theorem formatR_fields (w : Word) : formatR (opOf w) (xOf w) (yOf w) (nOf w) = w := by
  apply BitVec.eq_of_toNat_eq
  have := w.isLt
  rw [formatR_eq_ofNat, BitVec.toNat_ofNat, opOf_toNat, xOf_toNat, yOf_toNat, nOf_toNat]
  omega

/-- A format-I word is a format-R word whose last two nibbles are the immediate's. -/
theorem formatI_eq_formatR (op : BitVec 4) (x : RegIdx) (nn : Byte) :
    formatI op x nn = formatR op x (nn.extractLsb' 4 4) (nn.extractLsb' 0 4) := by
  apply BitVec.eq_of_toNat_eq
  have := nn.isLt
  simp only [formatI_eq_ofNat, formatR_eq_ofNat, BitVec.toNat_ofNat, BitVec.extractLsb'_toNat,
    Nat.shiftRight_eq_div_pow]
  omega

/-- A format-A word is a format-R word whose last three nibbles are the address's. -/
theorem formatA_eq_formatR (op : BitVec 4) (nnn : Addr12) :
    formatA op nnn = formatR op (nnn.extractLsb' 8 4) (nnn.extractLsb' 4 4) (nnn.extractLsb' 0 4) := by
  apply BitVec.eq_of_toNat_eq
  have := nnn.isLt
  simp only [formatA_eq_ofNat, formatR_eq_ofNat, BitVec.toNat_ofNat, BitVec.extractLsb'_toNat,
    Nat.shiftRight_eq_div_pow]
  omega

/-! The fields of the formats (R91). -/

@[simp] theorem opOf_formatR (op : BitVec 4) (x y : RegIdx) (n : BitVec 4) : opOf (formatR op x y n) = op := by
  apply BitVec.eq_of_toNat_eq
  have := op.isLt; have := x.isLt; have := y.isLt; have := n.isLt
  rw [opOf_toNat, formatR_eq_ofNat, BitVec.toNat_ofNat]
  omega

@[simp] theorem xOf_formatR (op : BitVec 4) (x y : RegIdx) (n : BitVec 4) : xOf (formatR op x y n) = x := by
  apply BitVec.eq_of_toNat_eq
  have := op.isLt; have := x.isLt; have := y.isLt; have := n.isLt
  rw [xOf_toNat, formatR_eq_ofNat, BitVec.toNat_ofNat]
  omega

@[simp] theorem yOf_formatR (op : BitVec 4) (x y : RegIdx) (n : BitVec 4) : yOf (formatR op x y n) = y := by
  apply BitVec.eq_of_toNat_eq
  have := op.isLt; have := x.isLt; have := y.isLt; have := n.isLt
  rw [yOf_toNat, formatR_eq_ofNat, BitVec.toNat_ofNat]
  omega

@[simp] theorem nOf_formatR (op : BitVec 4) (x y : RegIdx) (n : BitVec 4) : nOf (formatR op x y n) = n := by
  apply BitVec.eq_of_toNat_eq
  have := op.isLt; have := x.isLt; have := y.isLt; have := n.isLt
  rw [nOf_toNat, formatR_eq_ofNat, BitVec.toNat_ofNat]
  omega

@[simp] theorem opOf_formatI (op : BitVec 4) (x : RegIdx) (nn : Byte) : opOf (formatI op x nn) = op := by
  rw [formatI_eq_formatR, opOf_formatR]

@[simp] theorem xOf_formatI (op : BitVec 4) (x : RegIdx) (nn : Byte) : xOf (formatI op x nn) = x := by
  rw [formatI_eq_formatR, xOf_formatR]

@[simp] theorem nnOf_formatI (op : BitVec 4) (x : RegIdx) (nn : Byte) : nnOf (formatI op x nn) = nn := by
  apply BitVec.eq_of_toNat_eq
  have := op.isLt; have := x.isLt; have := nn.isLt
  rw [nnOf_toNat, formatI_eq_ofNat, BitVec.toNat_ofNat]
  omega

@[simp] theorem opOf_formatA (op : BitVec 4) (nnn : Addr12) : opOf (formatA op nnn) = op := by
  rw [formatA_eq_formatR, opOf_formatR]

@[simp] theorem nnnOf_formatA (op : BitVec 4) (nnn : Addr12) : nnnOf (formatA op nnn) = nnn := by
  apply BitVec.eq_of_toNat_eq
  have := op.isLt; have := nnn.isLt
  rw [nnnOf_toNat, formatA_eq_ofNat, BitVec.toNat_ofNat]
  omega

/-! The masks of R95 keep the nibbles they spell F and clear the others. -/

theorem formatR_and (a b c d a' b' c' d' : BitVec 4) :
    formatR a b c d &&& formatR a' b' c' d' = formatR (a &&& a') (b &&& b') (c &&& c') (d &&& d') := by
  change ((a ++ b ++ c ++ d : BitVec (4 + 4 + 4 + 4)) &&& (a' ++ b' ++ c' ++ d' : BitVec (4 + 4 + 4 + 4))) = _
  rw [BitVec.and_append, BitVec.and_append, BitVec.and_append]
  rfl

theorem and_F (a : BitVec 4) : a &&& 0xF = a := BitVec.and_allOnes

theorem and_0 (a : BitVec 4) : a &&& 0 = 0 := BitVec.and_zero

theorem maskF000 (a b c d : BitVec 4) : formatR a b c d &&& 0xF000 = formatR a 0 0 0 := by
  have h := formatR_and a b c d 0xF 0 0 0
  rw [show formatR 0xF 0 0 0 = 0xF000 by decide] at h
  rw [h]
  simp only [and_F, and_0]

theorem maskF00F (a b c d : BitVec 4) : formatR a b c d &&& 0xF00F = formatR a 0 0 d := by
  have h := formatR_and a b c d 0xF 0 0 0xF
  rw [show formatR 0xF 0 0 0xF = 0xF00F by decide] at h
  rw [h]
  simp only [and_F, and_0]

theorem maskF0FF (a b c d : BitVec 4) : formatR a b c d &&& 0xF0FF = formatR a 0 c d := by
  have h := formatR_and a b c d 0xF 0 0xF 0xF
  rw [show formatR 0xF 0 0xF 0xF = 0xF0FF by decide] at h
  rw [h]
  simp only [and_F, and_0]

theorem maskFFFF (a b c d : BitVec 4) : formatR a b c d &&& 0xFFFF = formatR a b c d := by
  have h := formatR_and a b c d 0xF 0xF 0xF 0xF
  rw [show formatR 0xF 0xF 0xF 0xF = 0xFFFF by decide] at h
  rw [h]
  simp only [and_F]

/-- What the decoder looks up: the whole word in family 0, `OP` and `N` in 5, 8 and 9, all but `X` in E and F, `OP` alone
in every other family (R95). -/
theorem masked_cases (w : Word) :
    ((opOf w).toNat = 0 ∧ w &&& maskOf (opOf w) = w) ∨
    (((opOf w).toNat = 5 ∨ (opOf w).toNat = 8 ∨ (opOf w).toNat = 9) ∧
      w &&& maskOf (opOf w) = formatR (opOf w) 0 0 (nOf w)) ∨
    (((opOf w).toNat = 14 ∨ (opOf w).toNat = 15) ∧ w &&& maskOf (opOf w) = formatR (opOf w) 0 (yOf w) (nOf w)) ∨
    ((opOf w).toNat ∉ [0, 5, 8, 9, 14, 15] ∧ w &&& maskOf (opOf w) = formatR (opOf w) 0 0 0) := by
  have hFFFF := maskFFFF (opOf w) (xOf w) (yOf w) (nOf w)
  have hF00F := maskF00F (opOf w) (xOf w) (yOf w) (nOf w)
  have hF0FF := maskF0FF (opOf w) (xOf w) (yOf w) (nOf w)
  have hF000 := maskF000 (opOf w) (xOf w) (yOf w) (nOf w)
  rw [formatR_fields w] at hFFFF hF00F hF0FF hF000
  unfold maskOf
  split
  · next h => exact .inl ⟨h, hFFFF⟩
  · next h => exact .inr (.inl ⟨.inl h, hF00F⟩)
  · next h => exact .inr (.inl ⟨.inr (.inl h), hF00F⟩)
  · next h => exact .inr (.inl ⟨.inr (.inr h), hF00F⟩)
  · next h => exact .inr (.inr (.inl ⟨.inl h, hF0FF⟩))
  · next h => exact .inr (.inr (.inl ⟨.inr h, hF0FF⟩))
  · next h0 h5 h8 h9 hE hF => exact .inr (.inr (.inr ⟨by simpa using ⟨h0, h5, h8, h9, hE, hF⟩, hF000⟩))

/-- The word read from the two bytes that hold a word is that word (R62). -/
theorem wordOfBytes_bytesOfWord (w : Word) : wordOfBytes (w.extractLsb' 8 8) (w.extractLsb' 0 8) = w := by
  apply BitVec.eq_of_toNat_eq
  have := w.isLt
  rw [wordOfBytes, toNat_append_eq, BitVec.extractLsb'_toNat, BitVec.extractLsb'_toNat]
  simp only [Nat.shiftRight_eq_div_pow]
  omega

/-- A word read from memory is 256 times the byte at the lower address plus the other one (R62, R221). -/
theorem wordOfBytes_eq_ofNat (hi lo : Byte) : wordOfBytes hi lo = BitVec.ofNat 16 (hi.toNat * 256 + lo.toNat) := by
  apply BitVec.eq_of_toNat_eq
  have := hi.isLt
  have := lo.isLt
  rw [wordOfBytes, toNat_append_eq, BitVec.toNat_ofNat]
  omega

end Sys2Proof
end

