-- ==== Sys2Proof/Laws/State.lean ====
section
/-! SUPPORT. One lemma per field per update of State, and per read of a register, a memory byte or a key. -/

namespace Sys2Proof.Machine.State

/-! The named updates that are one of the field updates below. -/

@[simp] theorem setFlag_eq (s : State) (b : Byte) : s.setFlag b = s.setReg regF b := rfl
@[simp] theorem advance_eq (s : State) : s.advance = s.setPc (s.pc + 2) := rfl
@[simp] theorem rewind_eq (s : State) : s.rewind = s.setPc (s.pc - 2) := rfl
@[simp] theorem skipIf_true (s : State) : s.skipIf true = s.setPc (s.pc + 2) := rfl
@[simp] theorem skipIf_false (s : State) : s.skipIf false = s := rfl
@[simp] theorem advanceIndex_eq (s : State) (x : RegIdx) :
    s.advanceIndex x = s.setIndex (s.i + BitVec.ofNat 16 (blockSize x)) := rfl
@[simp] theorem decrementTimers_eq (s : State) :
    s.decrementTimers = (s.setDelay (timerDown s.dt)).setSound (timerDown s.st) := rfl
@[simp] theorem sp_eq (s : State) : s.sp = s.stack.length := rfl
@[simp] theorem dataAddr_eq (s : State) : s.dataAddr = s.i.toNat := rfl

/-! `setReg` -/

@[simp] theorem setReg_v (s : State) (x : RegIdx) (b : Byte) : (s.setReg x b).v = s.v.set x.toNat b x.isLt := rfl
@[simp] theorem setReg_i (s : State) (x : RegIdx) (b : Byte) : (s.setReg x b).i = s.i := rfl
@[simp] theorem setReg_pc (s : State) (x : RegIdx) (b : Byte) : (s.setReg x b).pc = s.pc := rfl
@[simp] theorem setReg_stack (s : State) (x : RegIdx) (b : Byte) : (s.setReg x b).stack = s.stack := rfl
@[simp] theorem setReg_dt (s : State) (x : RegIdx) (b : Byte) : (s.setReg x b).dt = s.dt := rfl
@[simp] theorem setReg_st (s : State) (x : RegIdx) (b : Byte) : (s.setReg x b).st = s.st := rfl
@[simp] theorem setReg_mem (s : State) (x : RegIdx) (b : Byte) : (s.setReg x b).mem = s.mem := rfl
@[simp] theorem setReg_disp (s : State) (x : RegIdx) (b : Byte) : (s.setReg x b).disp = s.disp := rfl
@[simp] theorem setReg_keys (s : State) (x : RegIdx) (b : Byte) : (s.setReg x b).keys = s.keys := rfl
@[simp] theorem setReg_lifecycle (s : State) (x : RegIdx) (b : Byte) : (s.setReg x b).lifecycle = s.lifecycle := rfl
@[simp] theorem setReg_shiftQuirk (s : State) (x : RegIdx) (b : Byte) : (s.setReg x b).shiftQuirk = s.shiftQuirk := rfl
@[simp] theorem setReg_cyclesPerFrame (s : State) (x : RegIdx) (b : Byte) : (s.setReg x b).cyclesPerFrame = s.cyclesPerFrame := rfl
@[simp] theorem setReg_programLoaded (s : State) (x : RegIdx) (b : Byte) : (s.setReg x b).programLoaded = s.programLoaded := rfl
@[simp] theorem setReg_rom (s : State) (x : RegIdx) (b : Byte) : (s.setReg x b).rom = s.rom := rfl
@[simp] theorem setReg_frameDirty (s : State) (x : RegIdx) (b : Byte) : (s.setReg x b).frameDirty = s.frameDirty := rfl
@[simp] theorem setReg_params (s : State) (x : RegIdx) (b : Byte) : (s.setReg x b).params = s.params := rfl
@[simp] theorem setReg_randomInput (s : State) (x : RegIdx) (b : Byte) : (s.setReg x b).randomInput = s.randomInput := rfl
@[simp] theorem setReg_randomDraws (s : State) (x : RegIdx) (b : Byte) : (s.setReg x b).randomDraws = s.randomDraws := rfl
@[simp] theorem setReg_lastError (s : State) (x : RegIdx) (b : Byte) : (s.setReg x b).lastError = s.lastError := rfl
@[simp] theorem setReg_readByte (s : State) (x : RegIdx) (b : Byte) (c : Nat) : (s.setReg x b).readByte c = s.readByte c := rfl
@[simp] theorem setReg_key (s : State) (x : RegIdx) (b : Byte) (j : BitVec 4) : (s.setReg x b).key j = s.key j := rfl

/-! `setRegs` -/

@[simp] theorem setRegs_i (s : State) (bs : List Byte) : (s.setRegs bs).i = s.i := rfl
@[simp] theorem setRegs_pc (s : State) (bs : List Byte) : (s.setRegs bs).pc = s.pc := rfl
@[simp] theorem setRegs_stack (s : State) (bs : List Byte) : (s.setRegs bs).stack = s.stack := rfl
@[simp] theorem setRegs_dt (s : State) (bs : List Byte) : (s.setRegs bs).dt = s.dt := rfl
@[simp] theorem setRegs_st (s : State) (bs : List Byte) : (s.setRegs bs).st = s.st := rfl
@[simp] theorem setRegs_mem (s : State) (bs : List Byte) : (s.setRegs bs).mem = s.mem := rfl
@[simp] theorem setRegs_disp (s : State) (bs : List Byte) : (s.setRegs bs).disp = s.disp := rfl
@[simp] theorem setRegs_keys (s : State) (bs : List Byte) : (s.setRegs bs).keys = s.keys := rfl
@[simp] theorem setRegs_lifecycle (s : State) (bs : List Byte) : (s.setRegs bs).lifecycle = s.lifecycle := rfl
@[simp] theorem setRegs_shiftQuirk (s : State) (bs : List Byte) : (s.setRegs bs).shiftQuirk = s.shiftQuirk := rfl
@[simp] theorem setRegs_cyclesPerFrame (s : State) (bs : List Byte) : (s.setRegs bs).cyclesPerFrame = s.cyclesPerFrame := rfl
@[simp] theorem setRegs_programLoaded (s : State) (bs : List Byte) : (s.setRegs bs).programLoaded = s.programLoaded := rfl
@[simp] theorem setRegs_rom (s : State) (bs : List Byte) : (s.setRegs bs).rom = s.rom := rfl
@[simp] theorem setRegs_frameDirty (s : State) (bs : List Byte) : (s.setRegs bs).frameDirty = s.frameDirty := rfl
@[simp] theorem setRegs_params (s : State) (bs : List Byte) : (s.setRegs bs).params = s.params := rfl
@[simp] theorem setRegs_randomInput (s : State) (bs : List Byte) : (s.setRegs bs).randomInput = s.randomInput := rfl
@[simp] theorem setRegs_randomDraws (s : State) (bs : List Byte) : (s.setRegs bs).randomDraws = s.randomDraws := rfl
@[simp] theorem setRegs_lastError (s : State) (bs : List Byte) : (s.setRegs bs).lastError = s.lastError := rfl
@[simp] theorem setRegs_readByte (s : State) (bs : List Byte) (c : Nat) : (s.setRegs bs).readByte c = s.readByte c := rfl
@[simp] theorem setRegs_key (s : State) (bs : List Byte) (j : BitVec 4) : (s.setRegs bs).key j = s.key j := rfl

/-! `setIndex` -/

@[simp] theorem setIndex_v (s : State) (a : Word) : (s.setIndex a).v = s.v := rfl
@[simp] theorem setIndex_i (s : State) (a : Word) : (s.setIndex a).i = a := rfl
@[simp] theorem setIndex_pc (s : State) (a : Word) : (s.setIndex a).pc = s.pc := rfl
@[simp] theorem setIndex_stack (s : State) (a : Word) : (s.setIndex a).stack = s.stack := rfl
@[simp] theorem setIndex_dt (s : State) (a : Word) : (s.setIndex a).dt = s.dt := rfl
@[simp] theorem setIndex_st (s : State) (a : Word) : (s.setIndex a).st = s.st := rfl
@[simp] theorem setIndex_mem (s : State) (a : Word) : (s.setIndex a).mem = s.mem := rfl
@[simp] theorem setIndex_disp (s : State) (a : Word) : (s.setIndex a).disp = s.disp := rfl
@[simp] theorem setIndex_keys (s : State) (a : Word) : (s.setIndex a).keys = s.keys := rfl
@[simp] theorem setIndex_lifecycle (s : State) (a : Word) : (s.setIndex a).lifecycle = s.lifecycle := rfl
@[simp] theorem setIndex_shiftQuirk (s : State) (a : Word) : (s.setIndex a).shiftQuirk = s.shiftQuirk := rfl
@[simp] theorem setIndex_cyclesPerFrame (s : State) (a : Word) : (s.setIndex a).cyclesPerFrame = s.cyclesPerFrame := rfl
@[simp] theorem setIndex_programLoaded (s : State) (a : Word) : (s.setIndex a).programLoaded = s.programLoaded := rfl
@[simp] theorem setIndex_rom (s : State) (a : Word) : (s.setIndex a).rom = s.rom := rfl
@[simp] theorem setIndex_frameDirty (s : State) (a : Word) : (s.setIndex a).frameDirty = s.frameDirty := rfl
@[simp] theorem setIndex_params (s : State) (a : Word) : (s.setIndex a).params = s.params := rfl
@[simp] theorem setIndex_randomInput (s : State) (a : Word) : (s.setIndex a).randomInput = s.randomInput := rfl
@[simp] theorem setIndex_randomDraws (s : State) (a : Word) : (s.setIndex a).randomDraws = s.randomDraws := rfl
@[simp] theorem setIndex_lastError (s : State) (a : Word) : (s.setIndex a).lastError = s.lastError := rfl
@[simp] theorem setIndex_reg (s : State) (a : Word) (y : RegIdx) : (s.setIndex a).reg y = s.reg y := rfl
@[simp] theorem setIndex_readByte (s : State) (a : Word) (c : Nat) : (s.setIndex a).readByte c = s.readByte c := rfl
@[simp] theorem setIndex_key (s : State) (a : Word) (j : BitVec 4) : (s.setIndex a).key j = s.key j := rfl

/-! `setPc` -/

@[simp] theorem setPc_v (s : State) (a : Word) : (s.setPc a).v = s.v := rfl
@[simp] theorem setPc_i (s : State) (a : Word) : (s.setPc a).i = s.i := rfl
@[simp] theorem setPc_pc (s : State) (a : Word) : (s.setPc a).pc = a := rfl
@[simp] theorem setPc_stack (s : State) (a : Word) : (s.setPc a).stack = s.stack := rfl
@[simp] theorem setPc_dt (s : State) (a : Word) : (s.setPc a).dt = s.dt := rfl
@[simp] theorem setPc_st (s : State) (a : Word) : (s.setPc a).st = s.st := rfl
@[simp] theorem setPc_mem (s : State) (a : Word) : (s.setPc a).mem = s.mem := rfl
@[simp] theorem setPc_disp (s : State) (a : Word) : (s.setPc a).disp = s.disp := rfl
@[simp] theorem setPc_keys (s : State) (a : Word) : (s.setPc a).keys = s.keys := rfl
@[simp] theorem setPc_lifecycle (s : State) (a : Word) : (s.setPc a).lifecycle = s.lifecycle := rfl
@[simp] theorem setPc_shiftQuirk (s : State) (a : Word) : (s.setPc a).shiftQuirk = s.shiftQuirk := rfl
@[simp] theorem setPc_cyclesPerFrame (s : State) (a : Word) : (s.setPc a).cyclesPerFrame = s.cyclesPerFrame := rfl
@[simp] theorem setPc_programLoaded (s : State) (a : Word) : (s.setPc a).programLoaded = s.programLoaded := rfl
@[simp] theorem setPc_rom (s : State) (a : Word) : (s.setPc a).rom = s.rom := rfl
@[simp] theorem setPc_frameDirty (s : State) (a : Word) : (s.setPc a).frameDirty = s.frameDirty := rfl
@[simp] theorem setPc_params (s : State) (a : Word) : (s.setPc a).params = s.params := rfl
@[simp] theorem setPc_randomInput (s : State) (a : Word) : (s.setPc a).randomInput = s.randomInput := rfl
@[simp] theorem setPc_randomDraws (s : State) (a : Word) : (s.setPc a).randomDraws = s.randomDraws := rfl
@[simp] theorem setPc_lastError (s : State) (a : Word) : (s.setPc a).lastError = s.lastError := rfl
@[simp] theorem setPc_reg (s : State) (a : Word) (y : RegIdx) : (s.setPc a).reg y = s.reg y := rfl
@[simp] theorem setPc_readByte (s : State) (a : Word) (c : Nat) : (s.setPc a).readByte c = s.readByte c := rfl
@[simp] theorem setPc_key (s : State) (a : Word) (j : BitVec 4) : (s.setPc a).key j = s.key j := rfl

/-! `setDelay` -/

@[simp] theorem setDelay_v (s : State) (b : Byte) : (s.setDelay b).v = s.v := rfl
@[simp] theorem setDelay_i (s : State) (b : Byte) : (s.setDelay b).i = s.i := rfl
@[simp] theorem setDelay_pc (s : State) (b : Byte) : (s.setDelay b).pc = s.pc := rfl
@[simp] theorem setDelay_stack (s : State) (b : Byte) : (s.setDelay b).stack = s.stack := rfl
@[simp] theorem setDelay_dt (s : State) (b : Byte) : (s.setDelay b).dt = b := rfl
@[simp] theorem setDelay_st (s : State) (b : Byte) : (s.setDelay b).st = s.st := rfl
@[simp] theorem setDelay_mem (s : State) (b : Byte) : (s.setDelay b).mem = s.mem := rfl
@[simp] theorem setDelay_disp (s : State) (b : Byte) : (s.setDelay b).disp = s.disp := rfl
@[simp] theorem setDelay_keys (s : State) (b : Byte) : (s.setDelay b).keys = s.keys := rfl
@[simp] theorem setDelay_lifecycle (s : State) (b : Byte) : (s.setDelay b).lifecycle = s.lifecycle := rfl
@[simp] theorem setDelay_shiftQuirk (s : State) (b : Byte) : (s.setDelay b).shiftQuirk = s.shiftQuirk := rfl
@[simp] theorem setDelay_cyclesPerFrame (s : State) (b : Byte) : (s.setDelay b).cyclesPerFrame = s.cyclesPerFrame := rfl
@[simp] theorem setDelay_programLoaded (s : State) (b : Byte) : (s.setDelay b).programLoaded = s.programLoaded := rfl
@[simp] theorem setDelay_rom (s : State) (b : Byte) : (s.setDelay b).rom = s.rom := rfl
@[simp] theorem setDelay_frameDirty (s : State) (b : Byte) : (s.setDelay b).frameDirty = s.frameDirty := rfl
@[simp] theorem setDelay_params (s : State) (b : Byte) : (s.setDelay b).params = s.params := rfl
@[simp] theorem setDelay_randomInput (s : State) (b : Byte) : (s.setDelay b).randomInput = s.randomInput := rfl
@[simp] theorem setDelay_randomDraws (s : State) (b : Byte) : (s.setDelay b).randomDraws = s.randomDraws := rfl
@[simp] theorem setDelay_lastError (s : State) (b : Byte) : (s.setDelay b).lastError = s.lastError := rfl
@[simp] theorem setDelay_reg (s : State) (b : Byte) (y : RegIdx) : (s.setDelay b).reg y = s.reg y := rfl
@[simp] theorem setDelay_readByte (s : State) (b : Byte) (c : Nat) : (s.setDelay b).readByte c = s.readByte c := rfl
@[simp] theorem setDelay_key (s : State) (b : Byte) (j : BitVec 4) : (s.setDelay b).key j = s.key j := rfl

/-! `setSound` -/

@[simp] theorem setSound_v (s : State) (b : Byte) : (s.setSound b).v = s.v := rfl
@[simp] theorem setSound_i (s : State) (b : Byte) : (s.setSound b).i = s.i := rfl
@[simp] theorem setSound_pc (s : State) (b : Byte) : (s.setSound b).pc = s.pc := rfl
@[simp] theorem setSound_stack (s : State) (b : Byte) : (s.setSound b).stack = s.stack := rfl
@[simp] theorem setSound_dt (s : State) (b : Byte) : (s.setSound b).dt = s.dt := rfl
@[simp] theorem setSound_st (s : State) (b : Byte) : (s.setSound b).st = b := rfl
@[simp] theorem setSound_mem (s : State) (b : Byte) : (s.setSound b).mem = s.mem := rfl
@[simp] theorem setSound_disp (s : State) (b : Byte) : (s.setSound b).disp = s.disp := rfl
@[simp] theorem setSound_keys (s : State) (b : Byte) : (s.setSound b).keys = s.keys := rfl
@[simp] theorem setSound_lifecycle (s : State) (b : Byte) : (s.setSound b).lifecycle = s.lifecycle := rfl
@[simp] theorem setSound_shiftQuirk (s : State) (b : Byte) : (s.setSound b).shiftQuirk = s.shiftQuirk := rfl
@[simp] theorem setSound_cyclesPerFrame (s : State) (b : Byte) : (s.setSound b).cyclesPerFrame = s.cyclesPerFrame := rfl
@[simp] theorem setSound_programLoaded (s : State) (b : Byte) : (s.setSound b).programLoaded = s.programLoaded := rfl
@[simp] theorem setSound_rom (s : State) (b : Byte) : (s.setSound b).rom = s.rom := rfl
@[simp] theorem setSound_frameDirty (s : State) (b : Byte) : (s.setSound b).frameDirty = s.frameDirty := rfl
@[simp] theorem setSound_params (s : State) (b : Byte) : (s.setSound b).params = s.params := rfl
@[simp] theorem setSound_randomInput (s : State) (b : Byte) : (s.setSound b).randomInput = s.randomInput := rfl
@[simp] theorem setSound_randomDraws (s : State) (b : Byte) : (s.setSound b).randomDraws = s.randomDraws := rfl
@[simp] theorem setSound_lastError (s : State) (b : Byte) : (s.setSound b).lastError = s.lastError := rfl
@[simp] theorem setSound_reg (s : State) (b : Byte) (y : RegIdx) : (s.setSound b).reg y = s.reg y := rfl
@[simp] theorem setSound_readByte (s : State) (b : Byte) (c : Nat) : (s.setSound b).readByte c = s.readByte c := rfl
@[simp] theorem setSound_key (s : State) (b : Byte) (j : BitVec 4) : (s.setSound b).key j = s.key j := rfl

/-! `setMem` -/

@[simp] theorem setMem_v (s : State) (m : Memory) : (s.setMem m).v = s.v := rfl
@[simp] theorem setMem_i (s : State) (m : Memory) : (s.setMem m).i = s.i := rfl
@[simp] theorem setMem_pc (s : State) (m : Memory) : (s.setMem m).pc = s.pc := rfl
@[simp] theorem setMem_stack (s : State) (m : Memory) : (s.setMem m).stack = s.stack := rfl
@[simp] theorem setMem_dt (s : State) (m : Memory) : (s.setMem m).dt = s.dt := rfl
@[simp] theorem setMem_st (s : State) (m : Memory) : (s.setMem m).st = s.st := rfl
@[simp] theorem setMem_mem (s : State) (m : Memory) : (s.setMem m).mem = m := rfl
@[simp] theorem setMem_disp (s : State) (m : Memory) : (s.setMem m).disp = s.disp := rfl
@[simp] theorem setMem_keys (s : State) (m : Memory) : (s.setMem m).keys = s.keys := rfl
@[simp] theorem setMem_lifecycle (s : State) (m : Memory) : (s.setMem m).lifecycle = s.lifecycle := rfl
@[simp] theorem setMem_shiftQuirk (s : State) (m : Memory) : (s.setMem m).shiftQuirk = s.shiftQuirk := rfl
@[simp] theorem setMem_cyclesPerFrame (s : State) (m : Memory) : (s.setMem m).cyclesPerFrame = s.cyclesPerFrame := rfl
@[simp] theorem setMem_programLoaded (s : State) (m : Memory) : (s.setMem m).programLoaded = s.programLoaded := rfl
@[simp] theorem setMem_rom (s : State) (m : Memory) : (s.setMem m).rom = s.rom := rfl
@[simp] theorem setMem_frameDirty (s : State) (m : Memory) : (s.setMem m).frameDirty = s.frameDirty := rfl
@[simp] theorem setMem_params (s : State) (m : Memory) : (s.setMem m).params = s.params := rfl
@[simp] theorem setMem_randomInput (s : State) (m : Memory) : (s.setMem m).randomInput = s.randomInput := rfl
@[simp] theorem setMem_randomDraws (s : State) (m : Memory) : (s.setMem m).randomDraws = s.randomDraws := rfl
@[simp] theorem setMem_lastError (s : State) (m : Memory) : (s.setMem m).lastError = s.lastError := rfl
@[simp] theorem setMem_reg (s : State) (m : Memory) (y : RegIdx) : (s.setMem m).reg y = s.reg y := rfl
@[simp] theorem setMem_key (s : State) (m : Memory) (j : BitVec 4) : (s.setMem m).key j = s.key j := rfl

/-! `setStack` -/

@[simp] theorem setStack_v (s : State) (l : List Word) : (s.setStack l).v = s.v := rfl
@[simp] theorem setStack_i (s : State) (l : List Word) : (s.setStack l).i = s.i := rfl
@[simp] theorem setStack_pc (s : State) (l : List Word) : (s.setStack l).pc = s.pc := rfl
@[simp] theorem setStack_stack (s : State) (l : List Word) : (s.setStack l).stack = l := rfl
@[simp] theorem setStack_dt (s : State) (l : List Word) : (s.setStack l).dt = s.dt := rfl
@[simp] theorem setStack_st (s : State) (l : List Word) : (s.setStack l).st = s.st := rfl
@[simp] theorem setStack_mem (s : State) (l : List Word) : (s.setStack l).mem = s.mem := rfl
@[simp] theorem setStack_disp (s : State) (l : List Word) : (s.setStack l).disp = s.disp := rfl
@[simp] theorem setStack_keys (s : State) (l : List Word) : (s.setStack l).keys = s.keys := rfl
@[simp] theorem setStack_lifecycle (s : State) (l : List Word) : (s.setStack l).lifecycle = s.lifecycle := rfl
@[simp] theorem setStack_shiftQuirk (s : State) (l : List Word) : (s.setStack l).shiftQuirk = s.shiftQuirk := rfl
@[simp] theorem setStack_cyclesPerFrame (s : State) (l : List Word) : (s.setStack l).cyclesPerFrame = s.cyclesPerFrame := rfl
@[simp] theorem setStack_programLoaded (s : State) (l : List Word) : (s.setStack l).programLoaded = s.programLoaded := rfl
@[simp] theorem setStack_rom (s : State) (l : List Word) : (s.setStack l).rom = s.rom := rfl
@[simp] theorem setStack_frameDirty (s : State) (l : List Word) : (s.setStack l).frameDirty = s.frameDirty := rfl
@[simp] theorem setStack_params (s : State) (l : List Word) : (s.setStack l).params = s.params := rfl
@[simp] theorem setStack_randomInput (s : State) (l : List Word) : (s.setStack l).randomInput = s.randomInput := rfl
@[simp] theorem setStack_randomDraws (s : State) (l : List Word) : (s.setStack l).randomDraws = s.randomDraws := rfl
@[simp] theorem setStack_lastError (s : State) (l : List Word) : (s.setStack l).lastError = s.lastError := rfl
@[simp] theorem setStack_reg (s : State) (l : List Word) (y : RegIdx) : (s.setStack l).reg y = s.reg y := rfl
@[simp] theorem setStack_readByte (s : State) (l : List Word) (c : Nat) : (s.setStack l).readByte c = s.readByte c := rfl
@[simp] theorem setStack_key (s : State) (l : List Word) (j : BitVec 4) : (s.setStack l).key j = s.key j := rfl

/-! `setDisp` -/

@[simp] theorem setDisp_v (s : State) (d : Display) : (s.setDisp d).v = s.v := rfl
@[simp] theorem setDisp_i (s : State) (d : Display) : (s.setDisp d).i = s.i := rfl
@[simp] theorem setDisp_pc (s : State) (d : Display) : (s.setDisp d).pc = s.pc := rfl
@[simp] theorem setDisp_stack (s : State) (d : Display) : (s.setDisp d).stack = s.stack := rfl
@[simp] theorem setDisp_dt (s : State) (d : Display) : (s.setDisp d).dt = s.dt := rfl
@[simp] theorem setDisp_st (s : State) (d : Display) : (s.setDisp d).st = s.st := rfl
@[simp] theorem setDisp_mem (s : State) (d : Display) : (s.setDisp d).mem = s.mem := rfl
@[simp] theorem setDisp_disp (s : State) (d : Display) : (s.setDisp d).disp = d := rfl
@[simp] theorem setDisp_keys (s : State) (d : Display) : (s.setDisp d).keys = s.keys := rfl
@[simp] theorem setDisp_lifecycle (s : State) (d : Display) : (s.setDisp d).lifecycle = s.lifecycle := rfl
@[simp] theorem setDisp_shiftQuirk (s : State) (d : Display) : (s.setDisp d).shiftQuirk = s.shiftQuirk := rfl
@[simp] theorem setDisp_cyclesPerFrame (s : State) (d : Display) : (s.setDisp d).cyclesPerFrame = s.cyclesPerFrame := rfl
@[simp] theorem setDisp_programLoaded (s : State) (d : Display) : (s.setDisp d).programLoaded = s.programLoaded := rfl
@[simp] theorem setDisp_rom (s : State) (d : Display) : (s.setDisp d).rom = s.rom := rfl
@[simp] theorem setDisp_frameDirty (s : State) (d : Display) : (s.setDisp d).frameDirty = s.frameDirty := rfl
@[simp] theorem setDisp_params (s : State) (d : Display) : (s.setDisp d).params = s.params := rfl
@[simp] theorem setDisp_randomInput (s : State) (d : Display) : (s.setDisp d).randomInput = s.randomInput := rfl
@[simp] theorem setDisp_randomDraws (s : State) (d : Display) : (s.setDisp d).randomDraws = s.randomDraws := rfl
@[simp] theorem setDisp_lastError (s : State) (d : Display) : (s.setDisp d).lastError = s.lastError := rfl
@[simp] theorem setDisp_reg (s : State) (d : Display) (y : RegIdx) : (s.setDisp d).reg y = s.reg y := rfl
@[simp] theorem setDisp_readByte (s : State) (d : Display) (c : Nat) : (s.setDisp d).readByte c = s.readByte c := rfl
@[simp] theorem setDisp_key (s : State) (d : Display) (j : BitVec 4) : (s.setDisp d).key j = s.key j := rfl

/-! `setDirty` -/

@[simp] theorem setDirty_v (s : State) (b : Bool) : (s.setDirty b).v = s.v := rfl
@[simp] theorem setDirty_i (s : State) (b : Bool) : (s.setDirty b).i = s.i := rfl
@[simp] theorem setDirty_pc (s : State) (b : Bool) : (s.setDirty b).pc = s.pc := rfl
@[simp] theorem setDirty_stack (s : State) (b : Bool) : (s.setDirty b).stack = s.stack := rfl
@[simp] theorem setDirty_dt (s : State) (b : Bool) : (s.setDirty b).dt = s.dt := rfl
@[simp] theorem setDirty_st (s : State) (b : Bool) : (s.setDirty b).st = s.st := rfl
@[simp] theorem setDirty_mem (s : State) (b : Bool) : (s.setDirty b).mem = s.mem := rfl
@[simp] theorem setDirty_disp (s : State) (b : Bool) : (s.setDirty b).disp = s.disp := rfl
@[simp] theorem setDirty_keys (s : State) (b : Bool) : (s.setDirty b).keys = s.keys := rfl
@[simp] theorem setDirty_lifecycle (s : State) (b : Bool) : (s.setDirty b).lifecycle = s.lifecycle := rfl
@[simp] theorem setDirty_shiftQuirk (s : State) (b : Bool) : (s.setDirty b).shiftQuirk = s.shiftQuirk := rfl
@[simp] theorem setDirty_cyclesPerFrame (s : State) (b : Bool) : (s.setDirty b).cyclesPerFrame = s.cyclesPerFrame := rfl
@[simp] theorem setDirty_programLoaded (s : State) (b : Bool) : (s.setDirty b).programLoaded = s.programLoaded := rfl
@[simp] theorem setDirty_rom (s : State) (b : Bool) : (s.setDirty b).rom = s.rom := rfl
@[simp] theorem setDirty_frameDirty (s : State) (b : Bool) : (s.setDirty b).frameDirty = b := rfl
@[simp] theorem setDirty_params (s : State) (b : Bool) : (s.setDirty b).params = s.params := rfl
@[simp] theorem setDirty_randomInput (s : State) (b : Bool) : (s.setDirty b).randomInput = s.randomInput := rfl
@[simp] theorem setDirty_randomDraws (s : State) (b : Bool) : (s.setDirty b).randomDraws = s.randomDraws := rfl
@[simp] theorem setDirty_lastError (s : State) (b : Bool) : (s.setDirty b).lastError = s.lastError := rfl
@[simp] theorem setDirty_reg (s : State) (b : Bool) (y : RegIdx) : (s.setDirty b).reg y = s.reg y := rfl
@[simp] theorem setDirty_readByte (s : State) (b : Bool) (c : Nat) : (s.setDirty b).readByte c = s.readByte c := rfl
@[simp] theorem setDirty_key (s : State) (b : Bool) (j : BitVec 4) : (s.setDirty b).key j = s.key j := rfl

/-! `setKey` -/

@[simp] theorem setKey_v (s : State) (k : BitVec 4) (b : Bool) : (s.setKey k b).v = s.v := rfl
@[simp] theorem setKey_i (s : State) (k : BitVec 4) (b : Bool) : (s.setKey k b).i = s.i := rfl
@[simp] theorem setKey_pc (s : State) (k : BitVec 4) (b : Bool) : (s.setKey k b).pc = s.pc := rfl
@[simp] theorem setKey_stack (s : State) (k : BitVec 4) (b : Bool) : (s.setKey k b).stack = s.stack := rfl
@[simp] theorem setKey_dt (s : State) (k : BitVec 4) (b : Bool) : (s.setKey k b).dt = s.dt := rfl
@[simp] theorem setKey_st (s : State) (k : BitVec 4) (b : Bool) : (s.setKey k b).st = s.st := rfl
@[simp] theorem setKey_mem (s : State) (k : BitVec 4) (b : Bool) : (s.setKey k b).mem = s.mem := rfl
@[simp] theorem setKey_disp (s : State) (k : BitVec 4) (b : Bool) : (s.setKey k b).disp = s.disp := rfl
@[simp] theorem setKey_keys (s : State) (k : BitVec 4) (b : Bool) : (s.setKey k b).keys = s.keys.set k.toNat b k.isLt := rfl
@[simp] theorem setKey_lifecycle (s : State) (k : BitVec 4) (b : Bool) : (s.setKey k b).lifecycle = s.lifecycle := rfl
@[simp] theorem setKey_shiftQuirk (s : State) (k : BitVec 4) (b : Bool) : (s.setKey k b).shiftQuirk = s.shiftQuirk := rfl
@[simp] theorem setKey_cyclesPerFrame (s : State) (k : BitVec 4) (b : Bool) : (s.setKey k b).cyclesPerFrame = s.cyclesPerFrame := rfl
@[simp] theorem setKey_programLoaded (s : State) (k : BitVec 4) (b : Bool) : (s.setKey k b).programLoaded = s.programLoaded := rfl
@[simp] theorem setKey_rom (s : State) (k : BitVec 4) (b : Bool) : (s.setKey k b).rom = s.rom := rfl
@[simp] theorem setKey_frameDirty (s : State) (k : BitVec 4) (b : Bool) : (s.setKey k b).frameDirty = s.frameDirty := rfl
@[simp] theorem setKey_params (s : State) (k : BitVec 4) (b : Bool) : (s.setKey k b).params = s.params := rfl
@[simp] theorem setKey_randomInput (s : State) (k : BitVec 4) (b : Bool) : (s.setKey k b).randomInput = s.randomInput := rfl
@[simp] theorem setKey_randomDraws (s : State) (k : BitVec 4) (b : Bool) : (s.setKey k b).randomDraws = s.randomDraws := rfl
@[simp] theorem setKey_lastError (s : State) (k : BitVec 4) (b : Bool) : (s.setKey k b).lastError = s.lastError := rfl
@[simp] theorem setKey_reg (s : State) (k : BitVec 4) (b : Bool) (y : RegIdx) : (s.setKey k b).reg y = s.reg y := rfl
@[simp] theorem setKey_readByte (s : State) (k : BitVec 4) (b : Bool) (c : Nat) : (s.setKey k b).readByte c = s.readByte c := rfl

/-! `consumeRandom` -/

@[simp] theorem consumeRandom_v (s : State) : (s.consumeRandom).v = s.v := rfl
@[simp] theorem consumeRandom_i (s : State) : (s.consumeRandom).i = s.i := rfl
@[simp] theorem consumeRandom_pc (s : State) : (s.consumeRandom).pc = s.pc := rfl
@[simp] theorem consumeRandom_stack (s : State) : (s.consumeRandom).stack = s.stack := rfl
@[simp] theorem consumeRandom_dt (s : State) : (s.consumeRandom).dt = s.dt := rfl
@[simp] theorem consumeRandom_st (s : State) : (s.consumeRandom).st = s.st := rfl
@[simp] theorem consumeRandom_mem (s : State) : (s.consumeRandom).mem = s.mem := rfl
@[simp] theorem consumeRandom_disp (s : State) : (s.consumeRandom).disp = s.disp := rfl
@[simp] theorem consumeRandom_keys (s : State) : (s.consumeRandom).keys = s.keys := rfl
@[simp] theorem consumeRandom_lifecycle (s : State) : (s.consumeRandom).lifecycle = s.lifecycle := rfl
@[simp] theorem consumeRandom_shiftQuirk (s : State) : (s.consumeRandom).shiftQuirk = s.shiftQuirk := rfl
@[simp] theorem consumeRandom_cyclesPerFrame (s : State) : (s.consumeRandom).cyclesPerFrame = s.cyclesPerFrame := rfl
@[simp] theorem consumeRandom_programLoaded (s : State) : (s.consumeRandom).programLoaded = s.programLoaded := rfl
@[simp] theorem consumeRandom_rom (s : State) : (s.consumeRandom).rom = s.rom := rfl
@[simp] theorem consumeRandom_frameDirty (s : State) : (s.consumeRandom).frameDirty = s.frameDirty := rfl
@[simp] theorem consumeRandom_params (s : State) : (s.consumeRandom).params = s.params := rfl
@[simp] theorem consumeRandom_randomInput (s : State) : (s.consumeRandom).randomInput = s.randomInput.tail := rfl
@[simp] theorem consumeRandom_randomDraws (s : State) : (s.consumeRandom).randomDraws = s.randomDraws + 1 := rfl
@[simp] theorem consumeRandom_lastError (s : State) : (s.consumeRandom).lastError = s.lastError := rfl
@[simp] theorem consumeRandom_reg (s : State) (y : RegIdx) : (s.consumeRandom).reg y = s.reg y := rfl
@[simp] theorem consumeRandom_readByte (s : State) (c : Nat) : (s.consumeRandom).readByte c = s.readByte c := rfl
@[simp] theorem consumeRandom_key (s : State) (j : BitVec 4) : (s.consumeRandom).key j = s.key j := rfl

/-! `setError` -/

@[simp] theorem setError_v (s : State) (e : Option ErrorKind) : (s.setError e).v = s.v := rfl
@[simp] theorem setError_i (s : State) (e : Option ErrorKind) : (s.setError e).i = s.i := rfl
@[simp] theorem setError_pc (s : State) (e : Option ErrorKind) : (s.setError e).pc = s.pc := rfl
@[simp] theorem setError_stack (s : State) (e : Option ErrorKind) : (s.setError e).stack = s.stack := rfl
@[simp] theorem setError_dt (s : State) (e : Option ErrorKind) : (s.setError e).dt = s.dt := rfl
@[simp] theorem setError_st (s : State) (e : Option ErrorKind) : (s.setError e).st = s.st := rfl
@[simp] theorem setError_mem (s : State) (e : Option ErrorKind) : (s.setError e).mem = s.mem := rfl
@[simp] theorem setError_disp (s : State) (e : Option ErrorKind) : (s.setError e).disp = s.disp := rfl
@[simp] theorem setError_keys (s : State) (e : Option ErrorKind) : (s.setError e).keys = s.keys := rfl
@[simp] theorem setError_lifecycle (s : State) (e : Option ErrorKind) : (s.setError e).lifecycle = s.lifecycle := rfl
@[simp] theorem setError_shiftQuirk (s : State) (e : Option ErrorKind) : (s.setError e).shiftQuirk = s.shiftQuirk := rfl
@[simp] theorem setError_cyclesPerFrame (s : State) (e : Option ErrorKind) : (s.setError e).cyclesPerFrame = s.cyclesPerFrame := rfl
@[simp] theorem setError_programLoaded (s : State) (e : Option ErrorKind) : (s.setError e).programLoaded = s.programLoaded := rfl
@[simp] theorem setError_rom (s : State) (e : Option ErrorKind) : (s.setError e).rom = s.rom := rfl
@[simp] theorem setError_frameDirty (s : State) (e : Option ErrorKind) : (s.setError e).frameDirty = s.frameDirty := rfl
@[simp] theorem setError_params (s : State) (e : Option ErrorKind) : (s.setError e).params = s.params := rfl
@[simp] theorem setError_randomInput (s : State) (e : Option ErrorKind) : (s.setError e).randomInput = s.randomInput := rfl
@[simp] theorem setError_randomDraws (s : State) (e : Option ErrorKind) : (s.setError e).randomDraws = s.randomDraws := rfl
@[simp] theorem setError_lastError (s : State) (e : Option ErrorKind) : (s.setError e).lastError = e := rfl
@[simp] theorem setError_reg (s : State) (e : Option ErrorKind) (y : RegIdx) : (s.setError e).reg y = s.reg y := rfl
@[simp] theorem setError_readByte (s : State) (e : Option ErrorKind) (c : Nat) : (s.setError e).readByte c = s.readByte c := rfl
@[simp] theorem setError_key (s : State) (e : Option ErrorKind) (j : BitVec 4) : (s.setError e).key j = s.key j := rfl

/-! `setLifecycle` -/

@[simp] theorem setLifecycle_v (s : State) (l : Lifecycle) : (s.setLifecycle l).v = s.v := rfl
@[simp] theorem setLifecycle_i (s : State) (l : Lifecycle) : (s.setLifecycle l).i = s.i := rfl
@[simp] theorem setLifecycle_pc (s : State) (l : Lifecycle) : (s.setLifecycle l).pc = s.pc := rfl
@[simp] theorem setLifecycle_stack (s : State) (l : Lifecycle) : (s.setLifecycle l).stack = s.stack := rfl
@[simp] theorem setLifecycle_dt (s : State) (l : Lifecycle) : (s.setLifecycle l).dt = s.dt := rfl
@[simp] theorem setLifecycle_st (s : State) (l : Lifecycle) : (s.setLifecycle l).st = s.st := rfl
@[simp] theorem setLifecycle_mem (s : State) (l : Lifecycle) : (s.setLifecycle l).mem = s.mem := rfl
@[simp] theorem setLifecycle_disp (s : State) (l : Lifecycle) : (s.setLifecycle l).disp = s.disp := rfl
@[simp] theorem setLifecycle_keys (s : State) (l : Lifecycle) : (s.setLifecycle l).keys = s.keys := rfl
@[simp] theorem setLifecycle_lifecycle (s : State) (l : Lifecycle) : (s.setLifecycle l).lifecycle = l := rfl
@[simp] theorem setLifecycle_shiftQuirk (s : State) (l : Lifecycle) : (s.setLifecycle l).shiftQuirk = s.shiftQuirk := rfl
@[simp] theorem setLifecycle_cyclesPerFrame (s : State) (l : Lifecycle) : (s.setLifecycle l).cyclesPerFrame = s.cyclesPerFrame := rfl
@[simp] theorem setLifecycle_programLoaded (s : State) (l : Lifecycle) : (s.setLifecycle l).programLoaded = s.programLoaded := rfl
@[simp] theorem setLifecycle_rom (s : State) (l : Lifecycle) : (s.setLifecycle l).rom = s.rom := rfl
@[simp] theorem setLifecycle_frameDirty (s : State) (l : Lifecycle) : (s.setLifecycle l).frameDirty = s.frameDirty := rfl
@[simp] theorem setLifecycle_params (s : State) (l : Lifecycle) : (s.setLifecycle l).params = s.params := rfl
@[simp] theorem setLifecycle_randomInput (s : State) (l : Lifecycle) : (s.setLifecycle l).randomInput = s.randomInput := rfl
@[simp] theorem setLifecycle_randomDraws (s : State) (l : Lifecycle) : (s.setLifecycle l).randomDraws = s.randomDraws := rfl
@[simp] theorem setLifecycle_lastError (s : State) (l : Lifecycle) : (s.setLifecycle l).lastError = s.lastError := rfl
@[simp] theorem setLifecycle_reg (s : State) (l : Lifecycle) (y : RegIdx) : (s.setLifecycle l).reg y = s.reg y := rfl
@[simp] theorem setLifecycle_readByte (s : State) (l : Lifecycle) (c : Nat) : (s.setLifecycle l).readByte c = s.readByte c := rfl
@[simp] theorem setLifecycle_key (s : State) (l : Lifecycle) (j : BitVec 4) : (s.setLifecycle l).key j = s.key j := rfl

/-! Registers and keys after a write to them. -/

theorem reg_setReg (s : State) (x y : RegIdx) (b : Byte) : (s.setReg x b).reg y = if y = x then b else s.reg y := by
  simp only [State.reg, State.setReg, Vector.getElem_set, BitVec.toNat_inj, eq_comm (a := x)]

@[simp] theorem reg_setReg_self (s : State) (x : RegIdx) (b : Byte) : (s.setReg x b).reg x = b := by
  simp [reg_setReg]

theorem reg_setReg_ne (s : State) {x y : RegIdx} (b : Byte) (h : y ≠ x) : (s.setReg x b).reg y = s.reg y := by
  simp [reg_setReg, h]

theorem key_setKey (s : State) (k j : BitVec 4) (b : Bool) : (s.setKey k b).key j = if j = k then b else s.key j := by
  simp only [State.key, State.setKey, Vector.getElem_set, BitVec.toNat_inj, eq_comm (a := k)]

/-- After a block load, register r holds the r-th byte, or its old value when the block is shorter (R167). -/
theorem reg_setRegs (s : State) (bs : List Byte) (r : RegIdx) :
    (s.setRegs bs).reg r = (bs[r.toNat]?).getD (s.reg r) := by
  simp [State.reg, State.setRegs]

/-- The r-th byte of the registers `V[0..x]` is `V[r]` (R166). -/
theorem regsUpTo_getElem (s : State) (x r : RegIdx) (h : r.toNat < (s.regsUpTo x).length) :
    (s.regsUpTo x)[r.toNat] = s.reg r := by
  simp [State.regsUpTo, State.reg]

@[simp] theorem regsUpTo_length (s : State) (x : RegIdx) : (s.regsUpTo x).length = blockSize x := by
  have := x.isLt
  simp only [State.regsUpTo, List.length_take, Vector.length_toList, blockSize]
  omega

end Sys2Proof.Machine.State
end

