-- ==== Sys2Proof/Laws/Memory.lean ====
section
/-! SUPPORT. Memory: a read after a write, the canonical form, and what the block operations do (spec/20_memory.md,
R63 to R68). -/

namespace Sys2Proof.Machine

theorem Memory.read_filter_ne (font : Vector Byte 80) (m : Memory) {a c : Nat} (h : c ≠ a) :
    Memory.read font (m.filter fun k => k.1 != a) c = Memory.read font m c := by
  induction m with
  | nil => rfl
  | cons k rest ih =>
    by_cases hk : k.1 = a
    · have : k.1 ≠ c := fun e => h (e ▸ hk)
      simp [Memory.read, hk, ih, Ne.symm h]
    · simp [Memory.read, hk, ih]

theorem Memory.read_filter_self (font : Vector Byte 80) (m : Memory) (a : Nat) :
    Memory.read font (m.filter fun k => k.1 != a) a = Memory.background font a := by
  induction m with
  | nil => rfl
  | cons k rest ih =>
    by_cases hk : k.1 = a
    · simp [hk, ih]
    · simp [Memory.read, hk, ih]

theorem Memory.read_insert (font : Vector Byte 80) (m : Memory) (a c : Nat) (b : Byte) (h : ∀ k ∈ m, k.1 ≠ a) :
    Memory.read font (Memory.insert m a b) c = if c = a then b else Memory.read font m c := by
  induction m with
  | nil => by_cases hc : c = a <;> simp [Memory.insert, Memory.read, hc, eq_comm (a := a)]
  | cons k rest ih =>
    have ih := ih fun k' hk' => h k' (List.mem_cons_of_mem _ hk')
    have hk : k.1 ≠ a := h k List.mem_cons_self
    by_cases hlt : k.1 < a
    · simp only [Memory.insert, hlt, if_true, Memory.read, ih]
      by_cases hkc : k.1 = c
      · have : c ≠ a := hkc ▸ hk
        simp [hkc, this]
      · simp [hkc]
    · by_cases hc : c = a <;> simp [Memory.insert, hlt, Memory.read, hc, eq_comm (a := a)]

/-- A read after a write: the written byte at its address, every other address as before (R63, R64). -/
theorem Memory.read_write (font : Vector Byte 80) (m : Memory) (a c : Nat) (b : Byte) :
    Memory.read font (Memory.write font m a b) c = if c = a then b else Memory.read font m c := by
  unfold Memory.write
  by_cases hb : b = Memory.background font a
  · by_cases hc : c = a
    · simp [hb, hc, Memory.read_filter_self]
    · simp [hb, hc, Memory.read_filter_ne]
  · simp only [hb, if_false]
    rw [Memory.read_insert _ _ _ _ _ (by simp)]
    by_cases hc : c = a
    · simp [hc]
    · simp [hc, Memory.read_filter_ne]

/-- A read after a block store. -/
theorem Memory.read_writeBytes (font : Vector Byte 80) (bs : List Byte) (m : Memory) (a c : Nat) :
    Memory.read font (Memory.writeBytes font m a bs) c =
      if a ≤ c then (bs[c - a]?).getD (Memory.read font m c) else Memory.read font m c := by
  induction bs generalizing m a with
  | nil => simp [Memory.writeBytes]
  | cons b rest ih =>
    simp only [Memory.writeBytes, ih, Memory.read_write]
    by_cases h1 : a + 1 ≤ c
    · have : c - a = (c - (a + 1)) + 1 := by omega
      have h2 : c ≠ a := by omega
      have h3 : a ≤ c := by omega
      simp [h1, h3, this, h2]
    · by_cases h2 : c = a
      · simp [h2]
      · have : ¬ a ≤ c := by omega
        simp [h1, h2, this]

theorem Memory.mem_insert {m : Memory} {a : Nat} {b : Byte} {k : Host.Cell} (h : k ∈ Memory.insert m a b) :
    k = (a, b) ∨ k ∈ m := by
  induction m with
  | nil => simpa [Memory.insert] using h
  | cons c rest ih =>
    by_cases hlt : c.1 < a
    · simp only [Memory.insert, hlt, if_true, List.mem_cons] at h
      rcases h with h | h
      · simp [h]
      · rcases ih h with h | h <;> simp [h]
    · simpa [Memory.insert, hlt] using h

theorem Memory.pairwise_insert {m : Memory} {a : Nat} {b : Byte} (hm : m.Pairwise fun c d => c.1 < d.1)
    (h : ∀ k ∈ m, k.1 ≠ a) : (Memory.insert m a b).Pairwise fun c d => c.1 < d.1 := by
  induction m with
  | nil => simp [Memory.insert]
  | cons c rest ih =>
    have hc := (List.pairwise_cons.mp hm).1
    have ih := ih (List.pairwise_cons.mp hm).2 fun k hk => h k (List.mem_cons_of_mem _ hk)
    by_cases hlt : c.1 < a
    · simp only [Memory.insert, hlt, if_true, List.pairwise_cons]
      refine ⟨fun k hk => ?_, ih⟩
      rcases Memory.mem_insert hk with rfl | hk
      · exact hlt
      · exact hc k hk
    · have : a < c.1 := by have := h c List.mem_cons_self; omega
      simp only [Memory.insert, hlt, if_false, List.pairwise_cons, List.mem_cons]
      refine ⟨fun k hk => ?_, hc, (List.pairwise_cons.mp hm).2⟩
      rcases hk with rfl | hk
      · exact this
      · exact this.trans (hc k hk)

/-- A write inside memory keeps the canonical form. -/
theorem Memory.write_wf {font : Vector Byte 80} {m : Memory} (hm : Memory.wf font m) {a : Nat}
    (ha : a < Config.memSize) (b : Byte) : Memory.wf font (Memory.write font m a b) := by
  have hf : Memory.wf font (m.filter fun c => c.1 != a) :=
    ⟨hm.1.filter _, fun c hc => hm.2 c (List.mem_filter.mp hc).1⟩
  unfold Memory.write
  by_cases hb : b = Memory.background font a
  · simpa [hb] using hf
  · simp only [hb, if_false]
    refine ⟨Memory.pairwise_insert hf.1 (by simp), fun k hk => ?_⟩
    rcases Memory.mem_insert hk with rfl | hk
    · exact ⟨ha, hb⟩
    · exact hf.2 k hk

/-- A block store inside memory keeps the canonical form. -/
theorem Memory.writeBytes_wf {font : Vector Byte 80} {bs : List Byte} {m : Memory} (hm : Memory.wf font m) {a : Nat}
    (ha : a + bs.length ≤ Config.memSize) : Memory.wf font (Memory.writeBytes font m a bs) := by
  induction bs generalizing m a with
  | nil => exact hm
  | cons b rest ih =>
    simp only [List.length_cons] at ha
    exact ih (Memory.write_wf hm (by omega) b) (by omega)

/-- The empty memory is canonical. -/
theorem Memory.nil_wf (font : Vector Byte 80) : Memory.wf font [] := by simp [Memory.wf]

/-- The memory of a program reset is canonical when the image fits (R241). -/
theorem Memory.ofProgram_wf (font : Vector Byte 80) {rom : List Byte} (h : rom.length ≤ Config.maxProgramSize) :
    Memory.wf font (Memory.ofProgram font rom) :=
  Memory.writeBytes_wf (Memory.nil_wf font) (by
    simp only [Config.maxProgramSize, Config.programBase, Config.memSize] at *; omega)

/-- The memory of a program reset, byte by byte (R241). -/
theorem Memory.read_ofProgram (font : Vector Byte 80) (rom : List Byte) (a : Nat) :
    Memory.read font (Memory.ofProgram font rom) a =
      if 512 ≤ a then (rom[a - 512]?).getD (Memory.background font a) else Memory.background font a := by
  simp [Memory.ofProgram, Memory.read_writeBytes, Config.programBase, Memory.read]

/-- Equal reads and equal canonical form make equal memories: the form has no second spelling of a memory. -/
theorem Memory.ext_of_wf {font : Vector Byte 80} {m n : Memory} (hm : Memory.wf font m) (hn : Memory.wf font n)
    (h : ∀ a, Memory.read font m a = Memory.read font n a) : m = n := by
  have below : ∀ (l : Memory) (a : Nat), (∀ k ∈ l, a < k.1) → Memory.read font l a = Memory.background font a := by
    intro l a hl
    induction l with
    | nil => rfl
    | cons k rest ih =>
      have : k.1 ≠ a := by have := hl k List.mem_cons_self; omega
      simp [Memory.read, this, ih fun k' hk' => hl k' (List.mem_cons_of_mem _ hk')]
  induction m generalizing n with
  | nil =>
    cases n with
    | nil => rfl
    | cons c rest =>
      have := h c.1
      simp only [Memory.read, if_true] at this
      exact absurd this.symm (hn.2 c List.mem_cons_self).2
  | cons d rest ih =>
    have hd := List.pairwise_cons.mp hm.1
    have hmr : Memory.wf font rest := ⟨hd.2, fun c hc => hm.2 c (List.mem_cons_of_mem _ hc)⟩
    cases n with
    | nil =>
      have := h d.1
      simp only [Memory.read, if_true] at this
      exact absurd this (hm.2 d List.mem_cons_self).2
    | cons c rest' =>
      have hc := List.pairwise_cons.mp hn.1
      have hnr : Memory.wf font rest' := ⟨hc.2, fun k hk => hn.2 k (List.mem_cons_of_mem _ hk)⟩
      have key : d.1 = c.1 := by
        rcases lt_trichotomy d.1 c.1 with hlt | heq | hgt
        · have := h d.1
          rw [below (c :: rest') d.1 (by
            intro k hk
            rcases List.mem_cons.mp hk with rfl | hk
            · exact hlt
            · exact hlt.trans (hc.1 k hk))] at this
          simp only [Memory.read, if_true] at this
          exact absurd this (hm.2 d List.mem_cons_self).2
        · exact heq
        · have := h c.1
          rw [below (d :: rest) c.1 (by
            intro k hk
            rcases List.mem_cons.mp hk with rfl | hk
            · exact hgt
            · exact hgt.trans (hd.1 k hk))] at this
          simp only [Memory.read, if_true] at this
          exact absurd this.symm (hn.2 c List.mem_cons_self).2
      have val : d.2 = c.2 := by
        have := h d.1
        simpa [Memory.read, key] using this
      have tail : rest = rest' := by
        refine ih hmr hnr fun a => ?_
        by_cases ha : d.1 = a
        · rw [below rest a fun k hk => ha ▸ hd.1 k hk, below rest' a fun k hk => by
            have := hc.1 k hk; omega]
        · have := h a
          have hca : c.1 ≠ a := key ▸ ha
          simpa [Memory.read, ha, hca] using this
      rw [tail, Prod.ext key val]

/-- A block load answers bytes exactly when the whole range lies in memory, and then the bytes there (R65). -/
theorem State.loadBlock_eq_some {s : State} {a n : Nat} {bs : List Byte} :
    s.loadBlock a n = some bs ↔ a + n ≤ 4096 ∧ bs = (List.range n).map fun k => s.readByte (a + k) := by
  unfold State.loadBlock Config.memSize
  by_cases h : a + n ≤ 4096 <;> simp [h, eq_comm]

theorem State.loadBlock_eq_none {s : State} {a n : Nat} : s.loadBlock a n = none ↔ 4096 < a + n := by
  unfold State.loadBlock Config.memSize
  by_cases h : a + n ≤ 4096
  · simp only [h, if_true, reduceCtorEq, false_iff]; omega
  · simp only [h, if_false, true_iff]; omega

/-- A block store is done exactly when the whole range lies in memory (R65). -/
theorem State.storeBlock_eq_some {s t : State} {a : Nat} {bs : List Byte} :
    s.storeBlock a bs = some t ↔
      a + bs.length ≤ 4096 ∧ t = s.setMem (Memory.writeBytes s.params.font s.mem a bs) := by
  unfold State.storeBlock Config.memSize
  by_cases h : a + bs.length ≤ 4096 <;> simp [h, eq_comm]

theorem State.storeBlock_eq_none {s : State} {a : Nat} {bs : List Byte} :
    s.storeBlock a bs = none ↔ 4096 < a + bs.length := by
  unfold State.storeBlock Config.memSize
  by_cases h : a + bs.length ≤ 4096
  · simp only [h, if_true, reduceCtorEq, false_iff]; omega
  · simp only [h, if_false, true_iff]; omega

/-- What every byte reads as after a block store: the stored bytes in their range, the rest as before (R68). -/
theorem State.readByte_setMem_writeBytes (s : State) (a : Nat) (bs : List Byte) (c : Nat) :
    (s.setMem (Memory.writeBytes s.params.font s.mem a bs)).readByte c =
      if a ≤ c then (bs[c - a]?).getD (s.readByte c) else s.readByte c :=
  Memory.read_writeBytes _ _ _ _ _

/-- Fetch gives the big-endian word at `PC` exactly when `PC ≤ 4094` (R62, R66). -/
theorem State.fetch_eq_some {s : State} {w : Word} :
    s.fetch = some w ↔ s.pc.toNat ≤ 4094 ∧ w = wordOfBytes (s.readByte s.pc.toNat) (s.readByte (s.pc.toNat + 1)) := by
  unfold State.fetch State.loadBlock Config.memSize
  by_cases h : s.pc.toNat + 2 ≤ 4096
  · have h' : s.pc.toNat ≤ 4094 := by omega
    simp only [h, if_true, List.range_succ_eq_map, List.range_zero, List.map_cons, List.map_nil]
    simp [h', eq_comm]
  · have h' : ¬ s.pc.toNat ≤ 4094 := by omega
    simp [h, h']

theorem State.fetch_eq_none {s : State} : s.fetch = none ↔ 4095 ≤ s.pc.toNat := by
  rcases hf : s.fetch with _ | w
  · simp only [true_iff]
    by_contra h
    have := (State.fetch_eq_some (s := s)).mpr ⟨by omega, rfl⟩
    simp [hf] at this
  · have := (State.fetch_eq_some.mp hf).1
    simp only [reduceCtorEq, false_iff]
    omega

@[simp] theorem State.setError_fetch (s : State) (e : Option ErrorKind) : (s.setError e).fetch = s.fetch := rfl
@[simp] theorem State.setPc_loadBlock (s : State) (p : Word) (a n : Nat) :
    (s.setPc p).loadBlock a n = s.loadBlock a n := rfl

end Sys2Proof.Machine
end

