-- ==== Sys2Proof/Laws/Ops.lean ====
section
/-! SUPPORT. What each shared operation can do, said once. -/

namespace Sys2Proof.Machine

/-! Frames compose. -/

theorem Component.same_refl (c : Component) (s : State) : c.same s s := by cases c <;> simp [Component.same]

theorem Component.same_trans {c : Component} {s t u : State} (h : c.same s t) (k : c.same t u) : c.same s u := by
  cases c <;> simp_all [Component.same]

theorem OnlyChanges.refl (p : Component → Prop) (s : State) : OnlyChanges p s s := fun c _ => c.same_refl s

theorem OnlyChanges.trans {p : Component → Prop} {s t u : State} (h : OnlyChanges p s t) (k : OnlyChanges p t u) :
    OnlyChanges p s u := fun c hc => Component.same_trans (h c hc) (k c hc)

theorem OnlyChanges.mono {p q : Component → Prop} {s t : State} (h : OnlyChanges p s t) (hpq : ∀ c, p c → q c) :
    OnlyChanges q s t := fun c hc => h c fun hp => hc (hpq c hp)

/-! The frame of each field update. -/

theorem setReg_onlyChanges (s : State) (x : RegIdx) (b : Byte) : OnlyChanges (· = .reg x) s (s.setReg x b) := by
  intro c hc
  cases c with
  | reg y =>
    have : y ≠ x := fun h => hc (h ▸ rfl)
    exact State.reg_setReg_ne s b this
  | _ => simp [Component.same]

theorem setIndex_onlyChanges (s : State) (a : Word) : OnlyChanges (· = .index) s (s.setIndex a) := by
  intro c hc
  cases c <;> simp_all [Component.same]

theorem setPc_onlyChanges (s : State) (a : Word) : OnlyChanges (· = .pc) s (s.setPc a) := by
  intro c hc
  cases c <;> simp_all [Component.same]

theorem skipIf_onlyChanges (s : State) (b : Bool) : OnlyChanges (· = .pc) s (s.skipIf b) := by
  cases b
  · exact OnlyChanges.refl _ s
  · exact setPc_onlyChanges s _

theorem setDelay_onlyChanges (s : State) (b : Byte) : OnlyChanges (· = .delay) s (s.setDelay b) := by
  intro c hc
  cases c <;> simp_all [Component.same]

theorem setSound_onlyChanges (s : State) (b : Byte) : OnlyChanges (· = .sound) s (s.setSound b) := by
  intro c hc
  cases c <;> simp_all [Component.same]

theorem setStack_onlyChanges (s : State) (l : List Word) : OnlyChanges (· = .stack) s (s.setStack l) := by
  intro c hc
  cases c <;> simp_all [Component.same]

theorem setDirty_onlyChanges (s : State) (b : Bool) : OnlyChanges (· = .frameDirty) s (s.setDirty b) := by
  intro c hc
  cases c <;> simp_all [Component.same]

theorem setDisp_onlyChanges (s : State) (d : Display) : OnlyChanges Component.isDisplay s (s.setDisp d) := by
  intro c hc
  cases c with
  | display k => exact absurd ⟨k, rfl⟩ hc
  | _ => simp [Component.same]

theorem setKey_onlyChanges (s : State) (k : BitVec 4) (b : Bool) : OnlyChanges (· = .key k) s (s.setKey k b) := by
  intro c hc
  cases c with
  | key j =>
    have : j ≠ k := fun h => hc (h ▸ rfl)
    simp [Component.same, State.key_setKey, this]
  | _ => simp [Component.same]

theorem consumeRandom_onlyChanges (s : State) : OnlyChanges (· = .random) s s.consumeRandom := by
  intro c hc
  cases c <;> simp_all [Component.same]

/-- A block store changes memory only at the stored bytes (R65, R68). -/
theorem storeBlock_onlyChanges {s t : State} {a : Nat} {bs : List Byte} (h : s.storeBlock a bs = some t) :
    OnlyChanges (Component.isMemoryAt a bs.length) s t := by
  obtain ⟨-, rfl⟩ := State.storeBlock_eq_some.mp h
  intro c hc
  cases c with
  | memory b =>
    have hb : ¬ (a ≤ b ∧ b < a + bs.length) := fun ⟨h1, h2⟩ => hc ⟨b, h1, h2, rfl⟩
    simp only [Component.same, State.readByte_setMem_writeBytes]
    by_cases h1 : a ≤ b
    · have : bs.length ≤ b - a := by omega
      simp [h1, List.getElem?_eq_none this]
    · simp [h1]
  | _ => simp [Component.same]

/-! Errors. -/

/-- A checked operation either gives its result to the rest of the meaning, or raises. -/
theorem orRaise_cases {α : Type} {e : ErrorKind} {s : State} {o : Option α} {k : α → Result} {r : Result}
    (h : orRaise e s o k = r) : (∃ a, o = some a ∧ k a = r) ∨ (o = none ∧ r = .next (errorEntry e s)) := by
  cases o with
  | some a => exact .inl ⟨a, rfl, h⟩
  | none => exact .inr ⟨rfl, h.symm⟩

/-- Error entry takes the error and changes nothing else (R286, R288). -/
theorem errorEntry_taken (e : ErrorKind) (s : State) : ErrorTaken e s (errorEntry e s) := by
  refine ⟨rfl, rfl, rfl, fun c hc => ?_⟩
  cases c with
  | display k => exact absurd (.inr (.inr ⟨k, rfl⟩)) hc
  | lastError => exact absurd (.inl rfl) hc
  | lifecycle => exact absurd (.inr (.inl rfl)) hc
  | _ => simp [Component.same, errorEntry]

/-! The call stack. -/

/-- A push is done exactly when fewer than 16 calls are active (R28). -/
theorem push_eq_some {s t : State} {a : Word} : s.push a = some t ↔ s.sp < 16 ∧ t = s.setStack (a :: s.stack) := by
  unfold State.push Config.stackDepth
  by_cases h : s.sp < 16
  · simp only [h, if_true, Option.some.injEq, true_and, eq_comm]
  · simp only [h, if_false, reduceCtorEq, false_and]

theorem push_eq_none {s : State} {a : Word} : s.push a = none ↔ 16 ≤ s.sp := by
  unfold State.push Config.stackDepth
  by_cases h : s.sp < 16
  · simp only [h, if_true, reduceCtorEq, false_iff]; omega
  · simp only [h, if_false, true_iff]; omega

/-- A pop gives the newest entry (R29). -/
theorem pop_eq_some {s t : State} {a : Word} : s.pop = some (a, t) ↔ ∃ l, s.stack = a :: l ∧ t = s.setStack l := by
  unfold State.pop
  cases h : s.stack with
  | nil => simp
  | cons b l => simp [eq_comm, and_comm]

theorem pop_eq_none {s : State} : s.pop = none ↔ s.stack = [] := by
  unfold State.pop
  cases h : s.stack <;> simp

/-! Keys. -/

/-- The scan finds no key exactly when none is pressed (R202). -/
theorem lowestKey_eq_none {s : State} : s.lowestKey = none ↔ ∀ k, s.key k = false := by
  simp only [State.lowestKey, List.find?_eq_none, List.mem_map, List.mem_finRange, true_and, forall_exists_index,
    forall_apply_eq_imp_iff, Bool.not_eq_true]
  exact ⟨fun h k => h k.toFin, fun h k => h _⟩

/-- The scan finds the least pressed key (R202). -/
theorem lowestKey_eq_some {s : State} {k : BitVec 4} :
    s.lowestKey = some k ↔ s.key k = true ∧ ∀ j, j < k → s.key j = false := by
  have sorted : ((List.finRange 16).map (BitVec.ofFin (w := 4))).Pairwise (· < ·) := by decide
  have all : ∀ j : BitVec 4, j ∈ (List.finRange 16).map (BitVec.ofFin (w := 4)) := fun j =>
    List.mem_map.mpr ⟨j.toFin, List.mem_finRange _, rfl⟩
  unfold State.lowestKey
  constructor
  · intro h
    obtain ⟨hk, as, bs, hl, hn⟩ := List.find?_eq_some_iff_append.mp h
    refine ⟨hk, fun j hj => ?_⟩
    have hm := all j
    rw [hl] at hm sorted
    rcases List.mem_append.mp hm with hm | hm
    · simpa using hn j hm
    · have hs := (List.pairwise_append.mp sorted).2.1
      rcases List.mem_cons.mp hm with rfl | hm
      · exact absurd hj (BitVec.lt_irrefl j)
      · have := (List.pairwise_cons.mp hs).1 j hm
        exact absurd (BitVec.lt_trans hj this) (BitVec.lt_irrefl j)
  · rintro ⟨hk, hj⟩
    obtain ⟨as, bs, hl⟩ := List.append_of_mem (all k)
    rw [hl] at sorted ⊢
    refine List.find?_eq_some_iff_append.mpr ⟨hk, as, bs, rfl, fun j hm => ?_⟩
    have := (List.pairwise_append.mp sorted).2.2 j hm k List.mem_cons_self
    simp [hj j this]

/-! Values. -/

/-- One decrement, floored at 0 (R227). -/
theorem timerDown_toNat (b : Byte) : (timerDown b).toNat = b.toNat - 1 := by
  unfold timerDown
  by_cases h : b = 0
  · simp [h]
  · have h1 : b.toNat ≠ 0 := fun hb => h (BitVec.eq_of_toNat_eq hb)
    have h2 : 1#8 ≤ b := by rw [BitVec.le_def]; simp; omega
    simp only [h, if_false]
    rw [show (1 : Byte) = 1#8 from rfl, BitVec.toNat_sub_of_le h2]
    rfl

@[simp] theorem flagByte_toNat (b : Bool) : (flagByte b).toNat = if b then 1 else 0 := by cases b <;> rfl

/-- `V[x] AND 0xF` as a number (R207). -/
theorem lowNibble_toNat (s : State) (x : RegIdx) : (s.lowNibble x).toNat = (s.reg x).toNat % 16 := by
  simp [State.lowNibble]

/-- The word a cycle fetches, as a number (R221). -/
theorem fetch_eq_nextWord {s : State} (h : s.pc.toNat ≤ 4094) : s.fetch = some s.nextWord :=
  State.fetch_eq_some.mpr ⟨h, (wordOfBytes_eq_ofNat _ _).symm⟩

/-- A stored byte is the one read after the store (R75). -/
theorem State.byteAfterStore_of_covered {s : State} {a n b : Nat} (f : Nat → Byte) (h : a ≤ b) (h' : b < a + n) :
    s.byteAfterStore a n f b = f (b - a) := if_pos ⟨h, h'⟩

/-- A byte the store leaves out is the one before. -/
theorem State.byteAfterStore_of_not_covered {s : State} {a n b : Nat} (f : Nat → Byte) (h : ¬ (a ≤ b ∧ b < a + n)) :
    s.byteAfterStore a n f b = s.readByte b := if_neg h

/-- A state whose memory is that of `s` after a store fetches the word after that store (R75). -/
theorem fetch_eq_wordAfterStore {s t : State} {a n : Nat} {f : Nat → Byte} (hpc : t.pc = s.pc) (h : s.pc.toNat ≤ 4094)
    (hb : ∀ b, t.readByte b = s.byteAfterStore a n f b) : t.fetch = some (s.wordAfterStore a n f) := by
  rw [fetch_eq_nextWord (by rw [hpc]; exact h), State.nextWord, State.wordAfterStore, hpc, hb, hb]

/-! One step. -/

/-- What a step does, in its three cases: the fetch fails, the word is illegal, or an instruction runs (R220, R289). -/
theorem step_cases (s : State) :
    (4095 ≤ s.pc.toNat ∧ step s = .next (errorEntry .memoryOutOfRange s.beginCycle)) ∨
    (s.pc.toNat ≤ 4094 ∧ (∃ e, decode s.nextWord = .error e) ∧
      step s = .next (errorEntry .invalidOpcode s.beginCycle.advance)) ∨
    (s.pc.toNat ≤ 4094 ∧ ∃ i, decode s.nextWord = .ok i ∧ step s = exec i s.beginCycle.advance) := by
  by_cases h : s.pc.toNat ≤ 4094
  · have hf : s.beginCycle.fetch = some s.nextWord := fetch_eq_nextWord h
    refine .inr ?_
    simp only [step, cycle, hf, orRaise, runWord]
    cases hd : decode s.nextWord with
    | ok i => exact .inr ⟨h, i, rfl, rfl⟩
    | error e => exact .inl ⟨h, ⟨e, rfl⟩, rfl⟩
  · have h' : 4095 ≤ s.pc.toNat := by omega
    have hf : s.beginCycle.fetch = none := State.fetch_eq_none.mpr h'
    exact .inl ⟨h', by simp only [step, cycle, hf, orRaise, raise]⟩

end Sys2Proof.Machine
end

