-- ==== Sys2Proof/Laws/Display.lean ====
section
/-! SUPPORT. What one byte of a blit does (spec/43_display.md, R182). -/

namespace Sys2Proof.Machine

/-- Two display bytes are the same exactly when their wrapped rows and byte columns are (R33). -/
theorem dispIndex_eq_iff (r c r' c' : Nat) : dispIndex r c = dispIndex r' c' ↔ r % 32 = r' % 32 ∧ c % 8 = c' % 8 := by
  simp only [dispIndex, Fin.mk.injEq]
  omega

/-- Every display byte is the byte of some row and byte column. -/
theorem dispIndex_surjective (k : Fin 256) : dispIndex (k.val / 8) (k.val % 8) = k := by
  apply Fin.ext
  have := k.isLt
  simp only [dispIndex]
  omega

/-- The two bytes of one sprite row are different (R182). -/
theorem dispIndex_next_ne (r c : Nat) : dispIndex r (c + 1) ≠ dispIndex r c := by
  rw [Ne, dispIndex_eq_iff]
  omega

theorem blitByte_display (k j : Fin 256) (b : Byte) (p : Display × Bool) :
    (blitByte k b p).1[j] = if j = k then p.1[j] ^^^ b else p.1[j] := by
  by_cases h : j = k
  · subst h
    simp [blitByte]
  · have : k.val ≠ j.val := fun e => h (Fin.ext e.symm)
    simp [blitByte, h, this]

theorem blitByte_hit (k : Fin 256) (b : Byte) (p : Display × Bool) :
    (blitByte k b p).2 = (p.2 || (p.1[k] &&& b) != 0) := rfl

end Sys2Proof.Machine
end

