-- ==== Sys2Proof/Laws/PerInstr.lean ====
section
/-! SUPPORT. What is shown of every instruction as syntax, one lemma per constructor. -/

/-! The family RowMatch: the word of an instruction, under the mask of its own top nibble, is the match value of its
row of the opcode map (spec/30_encoding.md, R95 and R96). -/

namespace Sys2Proof.Laws.RowMatch

/-- The match value of an instruction's row, from the opcode map (R96). -/
def matchValue : Instr → Word
  | .cls => 0x00E0
  | .ret => 0x00EE
  | .jp _ => 0x1000
  | .call _ => 0x2000
  | .seImm _ _ => 0x3000
  | .sneImm _ _ => 0x4000
  | .seReg _ _ => 0x5000
  | .ldImm _ _ => 0x6000
  | .addImm _ _ => 0x7000
  | .ldReg _ _ => 0x8000
  | .orReg _ _ => 0x8001
  | .andReg _ _ => 0x8002
  | .xorReg _ _ => 0x8003
  | .addReg _ _ => 0x8004
  | .subReg _ _ => 0x8005
  | .shr _ _ => 0x8006
  | .subnReg _ _ => 0x8007
  | .shl _ _ => 0x800E
  | .sneReg _ _ => 0x9000
  | .ldI _ => 0xA000
  | .jpV0 _ => 0xB000
  | .rnd _ _ => 0xC000
  | .drw _ _ _ => 0xD000
  | .skp _ => 0xE09E
  | .sknp _ => 0xE0A1
  | .ldVxDt _ => 0xF007
  | .ldVxK _ => 0xF00A
  | .ldDtVx _ => 0xF015
  | .ldStVx _ => 0xF018
  | .addIVx _ => 0xF01E
  | .ldFVx _ => 0xF029
  | .ldBVx _ => 0xF033
  | .ldMemVx _ => 0xF055
  | .ldVxMem _ => 0xF065

def Statement (i : Instr) : Prop := encode i &&& maskOf (opOf (encode i)) = matchValue i

theorem cls : Statement (.cls) :=
  rfl

theorem ret : Statement (.ret) :=
  rfl

theorem jp (nnn : Addr12) : Statement (.jp nnn) :=
  by rw [Statement, encode, opOf_formatA, formatA_eq_formatR]; exact maskF000 _ _ _ _

theorem call (nnn : Addr12) : Statement (.call nnn) :=
  by rw [Statement, encode, opOf_formatA, formatA_eq_formatR]; exact maskF000 _ _ _ _

theorem seImm (x : RegIdx) (nn : Byte) : Statement (.seImm x nn) :=
  by rw [Statement, encode, opOf_formatI, formatI_eq_formatR]; exact maskF000 _ _ _ _

theorem sneImm (x : RegIdx) (nn : Byte) : Statement (.sneImm x nn) :=
  by rw [Statement, encode, opOf_formatI, formatI_eq_formatR]; exact maskF000 _ _ _ _

theorem seReg (x y : RegIdx) : Statement (.seReg x y) :=
  by rw [Statement, encode, opOf_formatR]; exact maskF00F _ _ _ _

theorem ldImm (x : RegIdx) (nn : Byte) : Statement (.ldImm x nn) :=
  by rw [Statement, encode, opOf_formatI, formatI_eq_formatR]; exact maskF000 _ _ _ _

theorem addImm (x : RegIdx) (nn : Byte) : Statement (.addImm x nn) :=
  by rw [Statement, encode, opOf_formatI, formatI_eq_formatR]; exact maskF000 _ _ _ _

theorem ldReg (x y : RegIdx) : Statement (.ldReg x y) :=
  by rw [Statement, encode, opOf_formatR]; exact maskF00F _ _ _ _

theorem orReg (x y : RegIdx) : Statement (.orReg x y) :=
  by rw [Statement, encode, opOf_formatR]; exact maskF00F _ _ _ _

theorem andReg (x y : RegIdx) : Statement (.andReg x y) :=
  by rw [Statement, encode, opOf_formatR]; exact maskF00F _ _ _ _

theorem xorReg (x y : RegIdx) : Statement (.xorReg x y) :=
  by rw [Statement, encode, opOf_formatR]; exact maskF00F _ _ _ _

theorem addReg (x y : RegIdx) : Statement (.addReg x y) :=
  by rw [Statement, encode, opOf_formatR]; exact maskF00F _ _ _ _

theorem subReg (x y : RegIdx) : Statement (.subReg x y) :=
  by rw [Statement, encode, opOf_formatR]; exact maskF00F _ _ _ _

theorem shr (x y : RegIdx) : Statement (.shr x y) :=
  by rw [Statement, encode, opOf_formatR]; exact maskF00F _ _ _ _

theorem subnReg (x y : RegIdx) : Statement (.subnReg x y) :=
  by rw [Statement, encode, opOf_formatR]; exact maskF00F _ _ _ _

theorem shl (x y : RegIdx) : Statement (.shl x y) :=
  by rw [Statement, encode, opOf_formatR]; exact maskF00F _ _ _ _

theorem sneReg (x y : RegIdx) : Statement (.sneReg x y) :=
  by rw [Statement, encode, opOf_formatR]; exact maskF00F _ _ _ _

theorem ldI (nnn : Addr12) : Statement (.ldI nnn) :=
  by rw [Statement, encode, opOf_formatA, formatA_eq_formatR]; exact maskF000 _ _ _ _

theorem jpV0 (nnn : Addr12) : Statement (.jpV0 nnn) :=
  by rw [Statement, encode, opOf_formatA, formatA_eq_formatR]; exact maskF000 _ _ _ _

theorem rnd (x : RegIdx) (nn : Byte) : Statement (.rnd x nn) :=
  by rw [Statement, encode, opOf_formatI, formatI_eq_formatR]; exact maskF000 _ _ _ _

theorem drw (x y : RegIdx) (n : BitVec 4) : Statement (.drw x y n) :=
  by rw [Statement, encode, opOf_formatR]; exact maskF000 _ _ _ _

theorem skp (x : RegIdx) : Statement (.skp x) :=
  by rw [Statement, encode, opOf_formatI, formatI_eq_formatR]; exact maskF0FF _ _ _ _

theorem sknp (x : RegIdx) : Statement (.sknp x) :=
  by rw [Statement, encode, opOf_formatI, formatI_eq_formatR]; exact maskF0FF _ _ _ _

theorem ldVxDt (x : RegIdx) : Statement (.ldVxDt x) :=
  by rw [Statement, encode, opOf_formatI, formatI_eq_formatR]; exact maskF0FF _ _ _ _

theorem ldVxK (x : RegIdx) : Statement (.ldVxK x) :=
  by rw [Statement, encode, opOf_formatI, formatI_eq_formatR]; exact maskF0FF _ _ _ _

theorem ldDtVx (x : RegIdx) : Statement (.ldDtVx x) :=
  by rw [Statement, encode, opOf_formatI, formatI_eq_formatR]; exact maskF0FF _ _ _ _

theorem ldStVx (x : RegIdx) : Statement (.ldStVx x) :=
  by rw [Statement, encode, opOf_formatI, formatI_eq_formatR]; exact maskF0FF _ _ _ _

theorem addIVx (x : RegIdx) : Statement (.addIVx x) :=
  by rw [Statement, encode, opOf_formatI, formatI_eq_formatR]; exact maskF0FF _ _ _ _

theorem ldFVx (x : RegIdx) : Statement (.ldFVx x) :=
  by rw [Statement, encode, opOf_formatI, formatI_eq_formatR]; exact maskF0FF _ _ _ _

theorem ldBVx (x : RegIdx) : Statement (.ldBVx x) :=
  by rw [Statement, encode, opOf_formatI, formatI_eq_formatR]; exact maskF0FF _ _ _ _

theorem ldMemVx (x : RegIdx) : Statement (.ldMemVx x) :=
  by rw [Statement, encode, opOf_formatI, formatI_eq_formatR]; exact maskF0FF _ _ _ _

theorem ldVxMem (x : RegIdx) : Statement (.ldVxMem x) :=
  by rw [Statement, encode, opOf_formatI, formatI_eq_formatR]; exact maskF0FF _ _ _ _

end Sys2Proof.Laws.RowMatch
end

