-- ==== Sys2Proof/Tests/Slice0.lean ====
section
/-! SUPPORT. Tests. Expected results are from spec/95_test_vectors.md (the vector's id stands in the name or the
comment), or worked out by hand from the rule cited. The witnesses at the end meet the statements' hypotheses. -/

namespace Sys2Proof.Tests

open Sys2Proof.Machine

/-! ## Helpers -/

/-- Power-on with a word at 0x200, where the next step fetches. -/
def placed (w : Nat) : State := State.reset.withFetchWord 16 w

/-- The state after one step. -/
def after (s : State) : State :=
  match step s with
  | .next t => t
  | _ => s

/-- Bytes placed in memory by a test. -/
def poke (s : State) (a : Nat) (bs : List Byte) : State :=
  s.setMem (Memory.writeBytes s.params.font s.mem a bs)

/-- The state after a host command. -/
def did (c : Command) (s : State) : State :=
  match command c s with
  | .next t => t
  | _ => s

/-! ## Well-formedness: an illegal word for each check, which the check refuses (R98) -/

theorem test_illegal_family0 : illegalIn0 0x0000 = true ∧ legalWord 0x0000 = false ∧ legalWord 0x00E1 = false := by decide
theorem test_illegal_family5 : illegalIn5 0x5121 = true ∧ legalWord 0x5121 = false := by decide
theorem test_illegal_family8 : illegalIn8 0x8128 = true ∧ legalWord 0x8128 = false ∧ legalWord 0x812F = false := by decide
theorem test_illegal_family9 : illegalIn9 0x9121 = true ∧ legalWord 0x9121 = false := by decide
theorem test_illegal_familyE : illegalInE 0xE19F = true ∧ legalWord 0xE19F = false := by decide
theorem test_illegal_familyF : illegalInF 0xF100 = true ∧ legalWord 0xF100 = false := by decide
theorem test_legal_words : legalWord 0x00E0 = true ∧ legalWord 0x5120 = true ∧ legalWord 0x800E = true ∧
    legalWord 0x9FF0 = true ∧ legalWord 0xE3A1 = true ∧ legalWord 0xF465 = true := by decide

/-! ## Decoding: one word per row of the opcode map, from the patterns of R96 -/

theorem test_decode_0_to_2 : decode 0x00E0 = .ok .cls ∧ decode 0x00EE = .ok .ret ∧
    decode 0x1ABC = .ok (.jp 0xABC) ∧ decode 0x2ABC = .ok (.call 0xABC) := by decide
theorem test_decode_3_to_7 : decode 0x3571 = .ok (.seImm 5 0x71) ∧ decode 0x4571 = .ok (.sneImm 5 0x71) ∧
    decode 0x5120 = .ok (.seReg 1 2) ∧ decode 0x6ABC = .ok (.ldImm 10 0xBC) ∧
    decode 0x72F0 = .ok (.addImm 2 0xF0) := by decide
theorem test_decode_8_low : decode 0x8120 = .ok (.ldReg 1 2) ∧ decode 0x8121 = .ok (.orReg 1 2) ∧
    decode 0x8122 = .ok (.andReg 1 2) ∧ decode 0x8123 = .ok (.xorReg 1 2) ∧ decode 0x8124 = .ok (.addReg 1 2) := by decide
theorem test_decode_8_high : decode 0x8125 = .ok (.subReg 1 2) ∧ decode 0x8126 = .ok (.shr 1 2) ∧
    decode 0x8127 = .ok (.subnReg 1 2) ∧ decode 0x812E = .ok (.shl 1 2) := by decide
theorem test_decode_9_to_D : decode 0x9120 = .ok (.sneReg 1 2) ∧ decode 0xA2F0 = .ok (.ldI 0x2F0) ∧
    decode 0xB300 = .ok (.jpV0 0x300) ∧ decode 0xC30F = .ok (.rnd 3 0x0F) ∧ decode 0xD123 = .ok (.drw 1 2 3) := by decide
theorem test_decode_E : decode 0xE29E = .ok (.skp 2) ∧ decode 0xE2A1 = .ok (.sknp 2) := by decide
theorem test_decode_F_low : decode 0xF507 = .ok (.ldVxDt 5) ∧ decode 0xF30A = .ok (.ldVxK 3) ∧
    decode 0xF515 = .ok (.ldDtVx 5) ∧ decode 0xF118 = .ok (.ldStVx 1) ∧ decode 0xF21E = .ok (.addIVx 2) := by decide
theorem test_decode_F_high : decode 0xF429 = .ok (.ldFVx 4) ∧ decode 0xF233 = .ok (.ldBVx 2) ∧
    decode 0xF255 = .ok (.ldMemVx 2) ∧ decode 0xF165 = .ok (.ldVxMem 1) := by decide
/-- Big-endian in memory: the byte at the lower address is the high one (R62). -/
theorem test_decode_bytes : decodeBytes [0x6A, 0xBC, 0x99] = .ok (.ldImm 10 0xBC, [0x99]) ∧
    decodeBytes [0x6A] = .error .truncated ∧ decodeTableWord 16 0x6ABC = some (.ldImm 10 0xBC) ∧
    decodeTableWord 16 0x5121 = none := by decide
theorem test_encode : encode (.drw 1 2 3) = 0xD123 ∧ encode (.ldVxK 3) = 0xF30A ∧ encode (.shl 8 4) = 0x884E := by decide

/-! ## Control flow -/

theorem test_T1_ret_empty_stack : (after (placed 0x00EE)).lastError = some .stackUnderflow ∧
    (after (placed 0x00EE)).pc = 0x202 ∧ (after (placed 0x00EE)).sp = 0 := by decide
theorem test_T2_ret : (after ((placed 0x00EE).setStack [0x204, 0x111])).pc = 0x204 ∧
    (after ((placed 0x00EE).setStack [0x204, 0x111])).stack = [0x111] := by decide
theorem test_T3_jp : (after (placed 0x1FFF)).pc = 0xFFF ∧
    (after (after (placed 0x1FFF))).lastError = some .memoryOutOfRange ∧ (after (after (placed 0x1FFF))).pc = 0xFFF := by decide
/-- T4: an odd `PC` is fetched normally. -/
theorem test_T4_odd_pc : (after (poke (placed 0x1203) 0x203 [0x6A, 0xBC])).pc = 0x203 ∧
    (after (after (poke (placed 0x1203) 0x203 [0x6A, 0xBC]))).reg 10 = 0xBC ∧
    (after (after (poke (placed 0x1203) 0x203 [0x6A, 0xBC]))).pc = 0x205 := by decide
theorem test_T5_call_full : (after ((placed 0x2300).setStack (List.replicate 16 0x202))).lastError = some .stackOverflow ∧
    (after ((placed 0x2300).setStack (List.replicate 16 0x202))).pc = 0x202 := by decide
theorem test_T6_call : (after ((placed 0x2300).setStack (List.replicate 15 0x111))).stack.head? = some 0x202 ∧
    (after ((placed 0x2300).setStack (List.replicate 15 0x111))).sp = 16 ∧
    (after ((placed 0x2300).setStack (List.replicate 15 0x111))).pc = 0x300 := by decide
theorem test_T8_jp_offset : (after ((placed 0xBFFF).setReg 0 0xFF)).pc = 0x10FE := by decide
theorem test_T10_se_imm : (after ((placed 0x3F01).setReg 15 1)).pc = 0x204 ∧ (after (placed 0x3F01)).pc = 0x202 := by decide
theorem test_T25_sne_imm : (after ((placed 0x4571).setReg 5 0x71)).pc = 0x202 ∧
    (after ((placed 0x4514).setReg 5 0x71)).pc = 0x204 := by decide
theorem test_T11_se_reg : (after (((placed 0x5120).setReg 1 7).setReg 2 7)).pc = 0x204 ∧
    (after (((placed 0x5120).setReg 1 7).setReg 2 8)).pc = 0x202 := by decide
theorem test_T13_sne_reg : (after (((placed 0x9120).setReg 1 7).setReg 2 8)).pc = 0x204 ∧
    (after ((placed 0x9330).setReg 3 9)).pc = 0x202 := by decide
theorem test_T16_last_word : (after ((poke State.reset 0xFFE [0x60, 0x11]).setPc 0xFFE)).reg 0 = 0x11 ∧
    (after ((poke State.reset 0xFFE [0x60, 0x11]).setPc 0xFFE)).pc = 0x1000 := by decide
theorem test_T18_illegal_word : (after State.reset).lastError = some .invalidOpcode ∧ (after State.reset).pc = 0x202 ∧
    (after State.reset).lifecycle = .empty := by decide

/-! ## Registers, arithmetic, logic, shifts, random -/

theorem test_A37_ld_imm : (after (placed 0x6FAB)).reg 15 = 0xAB := by decide
theorem test_A1_add_imm : (after (((placed 0x7220).setReg 2 0xF0).setReg 15 0x55)).reg 2 = 0x10 ∧
    (after (((placed 0x7220).setReg 2 0xF0).setReg 15 0x55)).reg 15 = 0x55 := by decide
theorem test_A36_ld_reg : (after ((placed 0x8170).setReg 7 0x3C)).reg 1 = 0x3C := by decide
theorem test_A34_or : (after ((((placed 0x8121).setReg 1 0xF0).setReg 2 0x0F).setReg 15 9)).reg 1 = 0xFF ∧
    (after ((((placed 0x8121).setReg 1 0xF0).setReg 2 0x0F).setReg 15 9)).reg 15 = 9 := by decide
theorem test_A38_and_xor : (after (((placed 0x8122).setReg 1 0xF3).setReg 2 0x3C)).reg 1 = 0x30 ∧
    (after (((placed 0x8123).setReg 1 0xF3).setReg 2 0x3C)).reg 1 = 0xCF := by decide
theorem test_A3_add_carry : (after (((placed 0x8374).setReg 3 0xFF).setReg 7 1)).reg 3 = 0 ∧
    (after (((placed 0x8374).setReg 3 0xFF).setReg 7 1)).reg 15 = 1 := by decide
theorem test_A5_A6_add_flag_operand : (after (((placed 0x8F14).setReg 15 0xC8).setReg 1 0x64)).reg 15 = 0x2C ∧
    (after (((placed 0x81F4).setReg 15 0xC8).setReg 1 0x64)).reg 15 = 1 := by decide
theorem test_A9_A11_sub : (after (((placed 0x8375).setReg 3 2).setReg 7 4)).reg 3 = 0xFE ∧
    (after (((placed 0x8375).setReg 3 2).setReg 7 4)).reg 15 = 0 ∧ (after ((placed 0x8335).setReg 3 9)).reg 15 = 1 := by decide
theorem test_A12_A14_sub_flag_operand : (after (((placed 0x8F15).setReg 15 5).setReg 1 3)).reg 15 = 0xFE ∧
    (after (((placed 0x81F5).setReg 15 3).setReg 1 0x0A)).reg 1 = 9 := by decide
theorem test_A18_subn : (after (((placed 0x8377).setReg 3 4).setReg 7 2)).reg 3 = 0xFE ∧
    (after (((placed 0x8377).setReg 3 4).setReg 7 2)).reg 15 = 0 := by decide
theorem test_A19_A21_subn_flag_operand : (after (((placed 0x8F17).setReg 15 5).setReg 1 3)).reg 15 = 3 ∧
    (after (((placed 0x81F7).setReg 15 3).setReg 1 0x0A)).reg 1 = 0xF6 := by decide
theorem test_A23_shr_quirk : (after (did (.setShiftQuirkMode true) ((placed 0x8476).setReg 7 0x0F))).reg 4 = 7 ∧
    (after (did (.setShiftQuirkMode true) ((placed 0x8476).setReg 7 0x0F))).reg 15 = 1 := by decide
theorem test_A25_A26_shr : (after (((placed 0x8476).setReg 4 5).setReg 7 0x0F)).reg 4 = 2 ∧
    (after ((placed 0x8F16).setReg 15 7)).reg 15 = 3 := by decide
theorem test_A28_A29_shl : (after ((placed 0x847E).setReg 4 0x81)).reg 4 = 2 ∧
    (after ((placed 0x847E).setReg 4 0x81)).reg 15 = 1 ∧
    (after (did (.setShiftQuirkMode true) ((placed 0x847E).setReg 7 0x40))).reg 4 = 0x80 := by decide
theorem test_A32_A33_rnd : (after (supplyRandom [0xA7, 0x55] (placed 0xC30F))).reg 3 = 7 ∧
    (after (supplyRandom [0xFF, 0x55] (placed 0xC300))).randomInput = [0x55] := by decide

/-! ## Index and memory -/

theorem test_I14_ld_index : (after (placed 0xA2F0)).i = 0x2F0 := by decide
theorem test_I1_I2_add_index : (after (((placed 0xF21E).setIndex 0xFFE).setReg 2 5)).i = 0x1003 ∧
    (after (((placed 0xF21E).setIndex 0xFFFF).setReg 2 1)).i = 0 := by decide
theorem test_I3_font_address : (after ((placed 0xF429).setReg 4 0x1A)).i = 50 := by decide
theorem test_I4_bcd : (memoryView (after (((placed 0xF233).setIndex 0xFFD).setReg 2 0xFF))).drop 0xFFD = [2, 5, 5] := by
  decide +kernel
theorem test_I5_bcd_out_of_range : (after (((placed 0xF233).setIndex 0xFFE).setReg 2 0xFF)).lastError = some .memoryOutOfRange ∧
    (after (((placed 0xF233).setIndex 0xFFE).setReg 2 0xFF)).readByte 0xFFE = 0 := by decide
theorem test_I9_store : (after (((placed 0xF055).setIndex 0xFFF).setReg 0 0xAB)).readByte 0xFFF = 0xAB ∧
    (after (((placed 0xF055).setIndex 0xFFF).setReg 0 0xAB)).i = 0x1000 := by decide
/-- I12: the font area is writable; only the stored byte changes. -/
theorem test_I12_store_into_font : (after ((placed 0xF055).setReg 0 0x12)).readByte 0 = 0x12 ∧
    (after ((placed 0xF055).setReg 0 0x12)).readByte 1 = State.reset.params.font[1] := by decide
theorem test_I11_load : (after (poke (((placed 0xF165).setIndex 0x300).setReg 2 0x77) 0x300 [0xAA, 0xBB, 0xCC])).reg 1 = 0xBB ∧
    (after (poke (((placed 0xF165).setIndex 0x300).setReg 2 0x77) 0x300 [0xAA, 0xBB, 0xCC])).reg 2 = 0x77 ∧
    (after (poke (((placed 0xF165).setIndex 0x300).setReg 2 0x77) 0x300 [0xAA, 0xBB, 0xCC])).i = 0x302 := by decide
theorem test_I10_load_out_of_range : (after (((placed 0xF065).setIndex 0x1000).setReg 0 0xAB)).reg 0 = 0xAB ∧
    (after (((placed 0xF065).setIndex 0x1000).setReg 0 0xAB)).i = 0x1000 := by decide

/-! ## Display -/

/-- DV1: a row that passes the right edge goes on at the left edge of the same row. -/
def dv1 : State := ((poke ((placed 0xD010).setIndex 0x300) 0x300 [0xFF]).setReg 0 60).setReg 1 31
theorem test_DV1_draw : (after dv1).disp[255] = 0x0F ∧ (after dv1).disp[248] = 0xF0 ∧ (after dv1).reg 15 = 0 ∧
    (after dv1).frameDirty = true := by decide +kernel
/-- DV2: the second draw erases the first and collides. -/
theorem test_DV2_draw_again : (after ((after dv1).setPc 0x200)).disp = clearedDisplay ∧
    (after ((after dv1).setPc 0x200)).reg 15 = 1 := by decide +kernel
theorem test_DV13_clear : (after ((placed 0x00E0).setDisp (Vector.replicate 256 0xFF))).disp = clearedDisplay := by
  decide +kernel

/-! ## Keypad and timers -/

theorem test_K1_K2_skp : (after (((placed 0xE29E).setReg 2 0x15).setKey 5 true)).pc = 0x204 ∧
    (after ((placed 0xE29E).setReg 2 5)).pc = 0x202 := by decide
theorem test_K4_K5_sknp : (after ((placed 0xE2A1).setReg 2 5)).pc = 0x204 ∧
    (after (((placed 0xE2A1).setReg 2 5).setKey 5 true)).pc = 0x202 := by decide
theorem test_K6_wait_key : (after (((placed 0xF30A).setKey 7 true).setKey 9 true)).reg 3 = 7 ∧
    (after (((placed 0xF30A).setKey 7 true).setKey 9 true)).key 7 = false ∧
    (after (((placed 0xF30A).setKey 7 true).setKey 9 true)).key 9 = true := by decide
theorem test_K7_wait_no_key : (after ((placed 0xF30A).setReg 3 0xEE)).pc = 0x200 ∧
    (after ((placed 0xF30A).setReg 3 0xEE)).reg 3 = 0xEE := by decide
theorem test_K9_read_delay : (after ((placed 0xF507).setDelay 42)).reg 5 = 0x2A := by decide
theorem test_K10_K11_set_timers : (after ((placed 0xF515).setReg 5 0x3C)).dt = 60 ∧
    (after ((placed 0xF118).setReg 1 2)).st = 2 := by decide

/-! ## Host commands -/

theorem test_H1_power_on_toggle_tick : command .toggle State.reset = .next State.reset ∧
    command .tick State.reset = .next State.reset := ⟨rfl, rfl⟩
theorem test_H5_load : (did (.load [0xAA, 0xBB]) State.reset).readByte 513 = 0xBB ∧
    (did (.load [0xAA, 0xBB]) State.reset).lifecycle = .reset := by decide
/-- H7: program `6005 F015 00EE`, five cycles a tick: the third one fails and is the last. -/
def h7 : State :=
  did .tick (did .toggle (did (.load [0x60, 0x05, 0xF0, 0x15, 0x00, 0xEE]) (did (.setCyclesPerFrame 5) State.reset)))
theorem test_H7_tick_stops_at_error : h7.pc = 0x206 ∧ h7.dt = 5 ∧ h7.lastError = some .stackUnderflow ∧
    h7.lifecycle = .empty := by decide
theorem test_tick_decrements_first : (did .tick (did .toggle
    (did (.load [0x12, 0x00]) (did (.setCyclesPerFrame 0) State.reset)) |>.setDelay 1)).dt = 0 := by decide

/-! ## Witnesses: for each statement with hypotheses, a state and operands that meet them all -/

theorem witness_DecodeOfEncodeGivesInstructionBack : (Instr.drw 1 2 15).wellFormed = true := rfl
theorem witness_EncodeOfDecodeGivesWordBack : decode 0xD12F = .ok (.drw 1 2 15) := by decide
theorem witness_StepRunsDecodedInstruction : ((poke State.reset 0xFFE [0x60, 0x11]).setPc 0xFFE).pc.toNat ≤ 4094 ∧
    decode (BitVec.ofNat 16
      ((((poke State.reset 0xFFE [0x60, 0x11]).setPc 0xFFE).readByte 4094).toNat * 256 +
        (((poke State.reset 0xFFE [0x60, 0x11]).setPc 0xFFE).readByte 4095).toNat)) = .ok (.ldImm 0 0x11) := by decide
theorem witness_FetchOutsideMemoryIsAnError : 4095 ≤ (State.reset.setPc 4095).pc.toNat := by decide
theorem witness_IllegalWordIsAnError : State.reset.pc.toNat ≤ 4094 ∧ legalWord State.reset.nextWord = false := by decide
theorem witness_StepAndTickAlwaysReturn : (after (placed 0x00EE)).lastError ≠ none ∧
    (did .tick ((did (.setCyclesPerFrame 1) (placed 0x00EE)).setLifecycle .running)).lastError ≠ none := by decide
theorem witness_ErrorKindsAreExactlyTheTable :
    (after (placed 0xF233)).lastError = none ∧ (after (placed 0x5121)).lastError = some .invalidOpcode ∧
    (after (placed 0x00EE)).lastError = some .stackUnderflow ∧
    (after ((placed 0x2206).setStack (List.replicate 16 0x202))).lastError = some .stackOverflow ∧
    (after ((placed 0xD01F).setIndex 4081)).lastError = some .memoryOutOfRange ∧
    (after (State.reset.setPc 4095)).lastError = some .memoryOutOfRange := by decide
theorem witness_ErrorsArePrecise : ∃ t, step (placed 0x00EE) = .next t ∧ t.lastError = some .stackUnderflow :=
  ⟨_, rfl, rfl⟩
theorem witness_InstructionsWriteOnlyWhatTheTablesGive :
    ∃ t, State.reset.lastError = none ∧ exec (.ldMemVx 3) State.reset = .next t ∧ t.lastError = none := ⟨_, rfl, rfl, rfl⟩
theorem witness_ProgramsCannotWriteHostSettings : ∃ t, step (placed 0x6005) = .next t ∨ tick (placed 0x6005) = .next t :=
  ⟨_, .inl rfl⟩
theorem witness_OnlyRndUsesTheRandomSource : ∀ x nn, decode (placed 0x6005).nextWord ≠ .ok (.rnd x nn) := by
  intro x nn
  rw [show decode (placed 0x6005).nextWord = .ok (.ldImm 0 5) by decide]
  simp
theorem witness_ReturnPopsTheNewestAddress :
    callStackView (State.reset.setStack [0x204, 0x111]) = [0x111] ++ [0x204] ∧ State.reset.sp = 0 := by decide
theorem witness_CallPushesReturnAddress : (State.reset.setStack (List.replicate 15 0x202)).sp < Config.stackDepth ∧
    Config.stackDepth ≤ (State.reset.setStack (List.replicate 16 0x202)).sp := by decide
theorem witness_DecimalDigitsAreStored : (State.reset.setIndex 4093).dataAddr + 2 < 4096 ∧
    4096 ≤ (State.reset.setIndex 4094).dataAddr + 2 := by decide
theorem witness_RegistersAreStored : (State.reset.setIndex 4080).dataAddr + (15 : RegIdx).toNat < 4096 ∧
    4096 ≤ (State.reset.setIndex 4081).dataAddr + (15 : RegIdx).toNat := by decide
theorem witness_RegistersAreLoaded : (State.reset.setIndex 4095).dataAddr + (0 : RegIdx).toNat < 4096 ∧
    4096 ≤ (State.reset.setIndex 4096).dataAddr + (0 : RegIdx).toNat := by decide
theorem witness_LoadRestoresStoredRegisters : ∃ t s' : State, State.reset.dataAddr + (3 : RegIdx).toNat < 4096 ∧
    exec (.ldMemVx 3) State.reset = .next t ∧ s'.mem = t.mem ∧ s'.params = t.params ∧ s'.i = State.reset.i :=
  ⟨_, State.setIndex _ 0, by decide, rfl, rfl, rfl, rfl⟩
/-- The second byte of the word at `PC` is the first one `Fx33` stores, and the last one `Fx55` stores with X = 15. -/
theorem witness_NextFetchSeesStore : ∃ s : State, s.pc.toNat ≤ 4094 ∧ s.dataAddr + 2 < 4096 ∧ s.dataAddr = s.pc.toNat + 1 :=
  ⟨State.reset.setIndex 0x201, by decide⟩
theorem witness_NextFetchSeesStore_block : ∃ s : State, s.pc.toNat ≤ 4094 ∧ s.dataAddr + (15 : RegIdx).toNat < 4096 ∧
    s.dataAddr + 15 = s.pc.toNat + 1 := ⟨State.reset.setIndex 0x1F2, by decide⟩
theorem witness_DrawTouchesOnlyItsRows : (State.reset.setIndex 4080).dataAddr + (15#4).toNat < 4096 ∧
    4096 ≤ (State.reset.setIndex 4081).dataAddr + (15#4).toNat := by decide
theorem witness_DrawComplementsPixelsUnderSprite : (State.reset.setIndex 4095).dataAddr + (0#4).toNat < 4096 := by decide
theorem witness_DrawingTwiceRestoresDisplay : ∃ t, dv1.dataAddr + (0#4).toNat < 4096 ∧ exec (.drw 0 1 0) dv1 = .next t ∧
    t.originX 0 = dv1.originX 0 ∧ t.originY 1 = dv1.originY 1 :=
  ⟨_, by decide, rfl, by decide +kernel, by decide +kernel⟩
theorem witness_KeySkipsReadTheLatch : (5#4).toNat = ((State.reset.setReg 2 0x15).reg 2).toNat % 16 := by decide
theorem witness_WaitForKeyTakesLowestKey : (State.reset.setKey 7 true).key 7 = true ∧
    (∀ j : BitVec 4, j < 7 → (State.reset.setKey 7 true).key j = false) ∧ (∀ k, State.reset.key k = false) := by decide
theorem witness_LoadRebuildsTheMachine : (List.replicate 3584 (0xAA : Byte)).length ≤ 3584 :=
  List.length_replicate.le
theorem witness_ResetToStartRestoresLoadedState : State.reset.programLoaded = false ∧
    ∃ t u, command (.load [0x60, 0x12]) State.reset = .next t ∧
      (∀ c ∈ [Command.step, .setKey 5 true], ∀ image, c ≠ .load image) ∧
      runCommands [.step, .setKey 5 true] t = .next u := ⟨rfl, _, _, rfl, by simp, rfl⟩
/-- H3: with no program `reset_to_start` does nothing. -/
theorem test_H3_reset_without_program : command .resetToStart State.reset = .next State.reset := rfl
theorem test_commands_at_the_edge_of_their_range :
    command (.setKey 15 true) State.reset = .next (State.reset.setKey 15 true) ∧
    command (.setKey 16 true) State.reset = .refused (.keyIndexOutOfRange 16) ∧
    command (.setCyclesPerFrame (-1)) State.reset = .refused (.negativeCyclesPerFrame (-1)) := ⟨rfl, rfl, rfl⟩
theorem test_load_one_byte_too_long (bytes : List Byte) (h : bytes.length = 3585) :
    command (.load bytes) State.reset = .refused (.programTooLarge 3585) := by
  simp only [command, loadProgram, h]
  rfl
theorem witness_LifecycleFollowsTheTable : ∃ t, command .toggle (State.reset.setLifecycle .reset) = .next t := ⟨_, rfl⟩
theorem witness_TogglesAndTicksCannotLeaveEmpty :
    (∀ c ∈ [Command.toggle, .tick], c = .toggle ∨ c = .tick) ∧ (after State.reset).lifecycle = .empty :=
  ⟨by simp, by decide⟩
theorem witness_TickDoesNothingUnlessRunning : State.reset.lifecycle ≠ .running := by decide
theorem witness_TickDecrementsThenRunsBatch : (State.reset.setLifecycle .running).lifecycle = .running := by decide
theorem witness_StepKeepsInvariant : Inv (State.reset.setIndex 0x300) ∧ ∃ t, step (State.reset.setIndex 0x300) = .next t :=
  ⟨⟨Memory.nil_wf _, by decide, by simp [State.reset], by decide, by decide, fun h => absurd rfl h, fun _ => rfl,
    fun h => absurd rfl h⟩, _, rfl⟩
theorem witness_HostRunsKeepInvariant : Inv (State.reset.setIndex 0x300) ∧
    ∃ t, runCommands [.load [0x12, 0x00], .step] (State.reset.setIndex 0x300) = .next t :=
  ⟨witness_StepKeepsInvariant.1, _, rfl⟩

end Sys2Proof.Tests
end

section
/-! What one instruction can do, said once (its frame and its effect on memory), and from it the invariant of R44 along
steps, ticks and runs of host commands. -/

namespace Sys2Proof.Machine

/-! ## Frames of composed updates -/

/-- A skip is one write of `PC` (R120). -/
theorem skipIf_eq_setPc (s : State) (c : Bool) : s.skipIf c = s.setPc (if c then s.pc + 2 else s.pc) := by
  cases c <;> rfl

/-- The two register writes of a flag-setting instruction (R140). -/
theorem setFlag_setReg_onlyChanges (s : State) (x : RegIdx) (f b : Byte) :
    OnlyChanges (fun c => c = .reg x ∨ c = .reg regF) s ((s.setFlag f).setReg x b) :=
  .trans ((setReg_onlyChanges s regF f).mono fun _ => .inr) ((setReg_onlyChanges _ x b).mono fun _ => .inl)

/-- A block load writes the registers up to the number of bytes, less one (R167). -/
theorem setRegs_onlyChanges (s : State) (x : RegIdx) {bs : List Byte} (h : bs.length = blockSize x) :
    OnlyChanges (Component.isRegUpTo x) s (s.setRegs bs) := by
  intro c hc
  cases c with
  | reg r =>
    have hr : ¬ r.toNat ≤ x.toNat := fun hle => hc ⟨r, hle, rfl⟩
    have hlen : bs.length ≤ r.toNat := by rw [h, blockSize]; omega
    simp [Component.same, State.reg_setRegs, List.getElem?_eq_none hlen]
  | _ => simp [Component.same]

/-- The writes of a draw: display, flag and `frame_dirty` (R182). -/
theorem draw_onlyChanges {p : Component → Prop} (s : State) (d : Display) (f : Byte)
    (hd : OnlyChanges p s (s.setDisp d)) :
    OnlyChanges (fun c => p c ∨ c = .reg regF ∨ c = .frameDirty) s (((s.setDisp d).setFlag f).setDirty true) :=
  .trans (hd.mono fun _ => .inl) (.trans ((setReg_onlyChanges _ regF f).mono fun _ h => .inr (.inl h))
    ((setDirty_onlyChanges _ true).mono fun _ h => .inr (.inr h)))

/-! ## One instruction -/

/-- `orRaise_cases` for the one answer an instruction gives. -/
theorem orRaise_next {α : Type} {e : ErrorKind} {s t : State} {o : Option α} {k : α → Result}
    (h : orRaise e s o k = .next t) : (∃ a, o = some a ∧ k a = .next t) ∨ t = errorEntry e s := by
  rcases orRaise_cases h with hk | ⟨-, hr⟩
  · exact .inl hk
  · cases hr; exact .inr rfl

/-- `Fx0A` takes the least pressed key, or goes back to its own address (R202). -/
theorem ldVxK_cases {x : RegIdx} {s t : State} (h : exec (.ldVxK x) s = .next t) :
    (∃ k, s.lowestKey = some k ∧ t = (s.setReg x (k.setWidth 8)).setKey k false) ∨
      (s.lowestKey = none ∧ t = s.rewind) := by
  change execLdVxK x s = .next t at h
  unfold execLdVxK at h
  cases hk : s.lowestKey <;> rw [hk] at h <;> cases h
  · exact .inr ⟨rfl, rfl⟩
  · exact .inl ⟨_, rfl, rfl⟩

/-- Memory is kept as it is, or one block that lies inside memory is stored (R64, R65). -/
def MemoryKeptOrStored (s t : State) : Prop :=
  t.mem = s.mem ∨ ∃ a bs, a + bs.length ≤ 4096 ∧ t.mem = Memory.writeBytes s.params.font s.mem a bs

theorem storeBlock_stored {s t : State} {a : Nat} {bs : List Byte} (h : s.storeBlock a bs = some t) :
    MemoryKeptOrStored s t := by
  obtain ⟨hle, rfl⟩ := State.storeBlock_eq_some.mp h
  exact .inr ⟨a, bs, hle, rfl⟩

/-- INVERSION of an instruction: it raises an error, or it writes what the access tables give it and stores at most one
block (R21 to R39, R70, R286). -/
theorem exec_cases {i : Instr} {s t : State} (h : exec i s = .next t) :
    (∃ e, t = errorEntry e s) ∨ OnlyChanges (mayWrite s i) s t ∧ MemoryKeptOrStored s t := by
  cases i with
  | cls => cases h; exact .inr ⟨setDisp_onlyChanges _ _, .inl rfl⟩
  | ret =>
    rcases orRaise_next h with ⟨⟨a, u⟩, hpop, hk⟩ | rfl
    · obtain ⟨l, -, rfl⟩ := pop_eq_some.mp hpop
      cases hk
      exact .inr ⟨.trans ((setStack_onlyChanges s l).mono fun _ => .inl) ((setPc_onlyChanges _ a).mono fun _ => .inr),
        .inl rfl⟩
    · exact .inl ⟨_, rfl⟩
  | call nnn =>
    rcases orRaise_next h with ⟨u, hpush, hk⟩ | rfl
    · obtain ⟨-, rfl⟩ := push_eq_some.mp hpush
      cases hk
      exact .inr ⟨.trans ((setStack_onlyChanges s _).mono fun _ => .inl) ((setPc_onlyChanges _ _).mono fun _ => .inr),
        .inl rfl⟩
    · exact .inl ⟨_, rfl⟩
  | jp | jpV0 => cases h; exact .inr ⟨setPc_onlyChanges _ _, .inl rfl⟩
  | seImm | sneImm | seReg | sneReg | skp | sknp =>
    cases h; exact .inr ⟨skipIf_onlyChanges _ _, .inl (by rw [skipIf_eq_setPc]; rfl)⟩
  | ldImm | addImm | ldReg | orReg | andReg | xorReg | ldVxDt =>
    cases h; exact .inr ⟨setReg_onlyChanges _ _ _, .inl rfl⟩
  | addReg | subReg | shr | subnReg | shl => cases h; exact .inr ⟨setFlag_setReg_onlyChanges _ _ _ _, .inl rfl⟩
  | ldI | addIVx | ldFVx => cases h; exact .inr ⟨setIndex_onlyChanges _ _, .inl rfl⟩
  | rnd x nn =>
    cases h
    exact .inr ⟨.trans ((consumeRandom_onlyChanges s).mono fun _ => .inr) ((setReg_onlyChanges _ x _).mono fun _ => .inl),
      .inl rfl⟩
  | drw x y n =>
    rcases orRaise_next h with ⟨sprite, -, hk⟩ | rfl
    · cases hk; exact .inr ⟨draw_onlyChanges s _ _ (setDisp_onlyChanges s _), .inl rfl⟩
    · exact .inl ⟨_, rfl⟩
  | ldVxK x =>
    rcases ldVxK_cases h with ⟨k, -, rfl⟩ | ⟨-, rfl⟩
    · exact .inr ⟨.trans ((setReg_onlyChanges s x _).mono fun _ => .inl)
        ((setKey_onlyChanges _ k false).mono fun _ h => .inr (.inr ⟨k, h⟩)), .inl rfl⟩
    · exact .inr ⟨(setPc_onlyChanges s _).mono fun _ h => .inr (.inl h), .inl rfl⟩
  | ldDtVx => cases h; exact .inr ⟨setDelay_onlyChanges _ _, .inl rfl⟩
  | ldStVx => cases h; exact .inr ⟨setSound_onlyChanges _ _, .inl rfl⟩
  | ldBVx x =>
    rcases orRaise_next h with ⟨u, hs, hk⟩ | rfl
    · cases hk; exact .inr ⟨storeBlock_onlyChanges hs, storeBlock_stored hs⟩
    · exact .inl ⟨_, rfl⟩
  | ldMemVx x =>
    rcases orRaise_next h with ⟨u, hs, hk⟩ | rfl
    · cases hk
      have hstored := storeBlock_stored hs
      have hmem := storeBlock_onlyChanges hs
      rw [State.regsUpTo_length] at hmem
      exact .inr ⟨.trans (hmem.mono fun _ => .inl) ((setIndex_onlyChanges u _).mono fun _ => .inr), hstored⟩
    · exact .inl ⟨_, rfl⟩
  | ldVxMem x =>
    rcases orRaise_next h with ⟨bs, hl, hk⟩ | rfl
    · cases hk
      obtain ⟨-, rfl⟩ := State.loadBlock_eq_some.mp hl
      exact .inr ⟨.trans ((setRegs_onlyChanges s x (by simp)).mono fun _ => .inl)
        ((setIndex_onlyChanges _ _).mono fun _ => .inr), .inl rfl⟩
    · exact .inl ⟨_, rfl⟩

/-- No instruction is given a host setting, the lifecycle state or the ghost (R220, R300). -/
theorem not_mayWrite {s : State} {i : Instr} {c : Component}
    (hc : c.isHostSetting ∨ c = .lifecycle ∨ c = .lastError) : ¬ mayWrite s i c := by
  rcases hc with (rfl | rfl | rfl | rfl) | rfl | rfl <;>
    cases i <;> simp [mayWrite, Component.isDisplay, Component.isMemoryAt, Component.isRegUpTo]

/-- No instruction but these two is given the call stack (R26). -/
theorem not_mayWrite_stack {s : State} {i : Instr} (hret : i ≠ .ret) (hcall : ∀ nnn, i ≠ .call nnn) :
    ¬ mayWrite s i .stack := by
  cases i <;> simp_all [mayWrite, Component.isDisplay, Component.isMemoryAt, Component.isRegUpTo]

/-- Settles O11: an error would show in the ghost, so the other case of the inversion holds. -/
theorem instructionsWriteOnlyWhatTheTablesGive : Obligations.InstructionsWriteOnlyWhatTheTablesGive := by
  intro i s t _ h ht
  rcases exec_cases h with ⟨e, rfl⟩ | ⟨hframe, -⟩
  · cases ht
  · exact hframe

/-! ## The invariant along one instruction and one step -/

/-- Settles O56, field by field: memory and stack are empty, the machine is Empty and no error is recorded. -/
theorem invariantHoldsAtReset : Obligations.InvariantHoldsAtReset where
  memory := Memory.nil_wf _
  depth := by decide
  returns := by simp [State.reset]
  pc := by decide
  size := by decide
  loaded h := absurd rfl h
  noImage _ := rfl
  error h := absurd rfl h

/-- Error entry makes the state the invariant asks for after a failed cycle (R286). -/
theorem errorEntry_inv {s : State} (hs : Inv s) (e : ErrorKind) : Inv (errorEntry e s) where
  memory := hs.memory
  depth := hs.depth
  returns := hs.returns
  pc := hs.pc
  size := hs.size
  loaded h := absurd rfl h
  noImage := hs.noImage
  error _ := ⟨rfl, rfl⟩

/-- The state a handler starts from: the invariant, `PC` just advanced from at most 4094, no error yet (R221, R222). -/
structure HandlerReady (s : State) : Prop where
  inv : Inv s
  pc_ge : 2 ≤ s.pc.toNat
  pc_le : s.pc.toNat ≤ 4096
  noError : s.lastError = none

theorem advance_toNat {s : State} (h : s.pc.toNat ≤ 4094) : s.advance.pc.toNat = s.pc.toNat + 2 := by
  simp only [State.advance_eq, State.setPc_pc, BitVec.toNat_add, BitVec.reduceToNat]
  omega

/-- The invariant without a recorded error survives any `PC` in range. -/
theorem setPc_inv {s : State} (hs : Inv s) {a : Word} (ha : a.toNat ≤ 4350) : Inv (s.setPc a) :=
  { hs with pc := ha }

theorem beginCycle_inv {s : State} (hs : Inv s) : Inv s.beginCycle :=
  { hs with error := fun h => absurd rfl h }

theorem handlerReady {s : State} (hs : Inv s) (h : s.pc.toNat ≤ 4094) : HandlerReady s.beginCycle.advance := by
  have hpc : s.beginCycle.advance.pc.toNat = s.pc.toNat + 2 := advance_toNat h
  exact ⟨setPc_inv (beginCycle_inv hs) (by simp only [State.advance_eq, State.setPc_pc] at hpc; omega), by omega, by omega, rfl⟩

/-- Both results of a skip are in range (R25, R120). -/
theorem skipIf_pc_le {s : State} (hs : HandlerReady s) (c : Bool) : (s.skipIf c).pc.toNat ≤ 4350 := by
  have := hs.pc_le
  cases c
  · exact hs.inv.pc
  · simp only [State.skipIf_true, State.setPc_pc, BitVec.toNat_add, BitVec.reduceToNat]
    omega

/-- After any instruction `PC` is at most 4350, which `Bnnn` attains (R25). -/
theorem exec_pc_le {i : Instr} {s t : State} (hs : HandlerReady s) (h : exec i s = .next t) : t.pc.toNat ≤ 4350 := by
  have hpc := hs.inv.pc
  have keeps (hi : ¬ mayWrite s i .pc) : t.pc.toNat ≤ 4350 := by
    rcases exec_cases h with ⟨e, rfl⟩ | ⟨hframe, -⟩
    · exact hpc
    · rw [show t.pc = s.pc from hframe .pc hi]; exact hpc
  cases i with
  | ret =>
    rcases orRaise_next h with ⟨⟨a, u⟩, hpop, hk⟩ | rfl
    · obtain ⟨l, hl, rfl⟩ := pop_eq_some.mp hpop
      cases hk
      have := (hs.inv.returns a (hl ▸ List.mem_cons_self)).2
      simp only [State.setPc_pc]
      omega
    · exact hpc
  | jp nnn =>
    cases h
    have := nnn.isLt
    simp only [State.setPc_pc, BitVec.toNat_setWidth]
    omega
  | call nnn =>
    rcases orRaise_next h with ⟨u, -, hk⟩ | rfl
    · cases hk
      have := nnn.isLt
      simp only [State.setPc_pc, BitVec.toNat_setWidth]
      omega
    · exact hpc
  | jpV0 nnn =>
    cases h
    have := nnn.isLt
    have := (s.reg 0).isLt
    simp only [State.setPc_pc, State.offsetTarget, BitVec.toNat_add, BitVec.toNat_setWidth]
    omega
  | seImm | sneImm | seReg | sneReg | skp | sknp => cases h; exact skipIf_pc_le hs _
  | ldVxK x =>
    have := hs.pc_ge
    rcases ldVxK_cases h with ⟨k, -, rfl⟩ | ⟨-, rfl⟩
    · exact hpc
    · simp only [State.rewind_eq, State.setPc_pc, BitVec.toNat_sub, BitVec.reduceToNat]
      omega
  | _ => exact keeps (by simp [mayWrite, Component.isDisplay, Component.isMemoryAt, Component.isRegUpTo])

/-- After any instruction the call stack has at most 16 entries, each of them in 2..4096 (R28, R44). -/
theorem exec_stack {i : Instr} {s t : State} (hs : HandlerReady s) (h : exec i s = .next t) :
    t.stack.length ≤ 16 ∧ ∀ a ∈ t.stack, 2 ≤ a.toNat ∧ a.toNat ≤ 4096 := by
  have same : s.stack.length ≤ 16 ∧ ∀ a ∈ s.stack, 2 ≤ a.toNat ∧ a.toNat ≤ 4096 := ⟨hs.inv.depth, hs.inv.returns⟩
  by_cases hret : i = .ret
  · subst hret
    rcases orRaise_next h with ⟨⟨a, u⟩, hpop, hk⟩ | rfl
    · obtain ⟨l, hl, rfl⟩ := pop_eq_some.mp hpop
      cases hk
      rw [hl] at same
      exact ⟨(Nat.le_succ _).trans same.1, fun b hb => same.2 b (List.mem_cons_of_mem _ hb)⟩
    · exact same
  · by_cases hcall : ∃ nnn, i = .call nnn
    · obtain ⟨nnn, rfl⟩ := hcall
      rcases orRaise_next h with ⟨u, hpush, hk⟩ | rfl
      · obtain ⟨hlt, rfl⟩ := push_eq_some.mp hpush
        cases hk
        refine ⟨hlt, fun b hb => ?_⟩
        rcases List.mem_cons.mp hb with rfl | hb
        · exact ⟨hs.pc_ge, hs.pc_le⟩
        · exact same.2 b hb
      · exact same
    · rcases exec_cases h with ⟨e, rfl⟩ | ⟨hframe, -⟩
      · exact same
      · rw [show t.stack = s.stack from hframe .stack (not_mayWrite_stack hret fun nnn e => hcall ⟨nnn, e⟩)]
        exact same

/-- An instruction keeps the invariant: errors by error entry; else memory, stack and `PC` by the lemmas above, and what
the invariant says of the rest is not the instruction's to write. -/
theorem exec_inv {i : Instr} {s t : State} (hs : HandlerReady s) (h : exec i s = .next t) : Inv t := by
  rcases exec_cases h with ⟨e, rfl⟩ | ⟨hframe, hmem⟩
  · exact errorEntry_inv hs.inv e
  · obtain ⟨hdepth, hreturns⟩ := exec_stack hs h
    have hlife : t.lifecycle = s.lifecycle := hframe .lifecycle (not_mayWrite (.inr (.inl rfl)))
    have herr : t.lastError = s.lastError := hframe .lastError (not_mayWrite (.inr (.inr rfl)))
    have hparams : t.params = s.params := hframe .params (not_mayWrite (.inl (.inr (.inr (.inr rfl)))))
    obtain ⟨hrom, hloaded⟩ := hframe .program (not_mayWrite (.inl (.inr (.inr (.inl rfl)))))
    exact {
      memory := by
        rw [hparams]
        rcases hmem with hm | ⟨a, bs, hle, hm⟩ <;> rw [hm]
        · exact hs.inv.memory
        · exact Memory.writeBytes_wf hs.inv.memory hle
      depth := hdepth
      returns := hreturns
      pc := exec_pc_le hs h
      size := hrom ▸ hs.inv.size
      loaded := by rw [hlife, hloaded]; exact hs.inv.loaded
      noImage := by rw [hrom, hloaded]; exact hs.inv.noImage
      error := fun hne => absurd (herr.trans hs.noError) hne }

/-- One cycle keeps the invariant, by the three cases of a step (R220). -/
theorem step_inv {s t : State} (hs : Inv s) (h : step s = .next t) : Inv t := by
  rcases step_cases s with ⟨-, hstep⟩ | ⟨hpc, -, hstep⟩ | ⟨hpc, i, -, hstep⟩ <;> rw [hstep] at h
  · cases h; exact errorEntry_inv (beginCycle_inv hs) _
  · cases h; exact errorEntry_inv (handlerReady hs hpc).inv _
  · exact exec_inv (handlerReady hs hpc) h

/-- Settles O57, by the three cases of a step and, for the one that runs an instruction, `exec_inv`. -/
theorem stepKeepsInvariant : Obligations.StepKeepsInvariant := fun _ _ => step_inv

/-! ## Ticks and runs of commands -/

/-- What every step keeps, a batch of cycles keeps (R226). -/
theorem runBatch_induction {P : State → Prop} (hstep : ∀ s t, P s → step s = .next t → P t) (n : Nat) {s t : State}
    (hs : P s) (h : runBatch n s = .next t) : P t := by
  induction n generalizing s with
  | zero => cases h; exact hs
  | succ n ih =>
    unfold runBatch at h
    cases hc : cycle s with
    | next u =>
      have hu : P u := hstep s u hs hc
      simp only [hc] at h
      by_cases he : u.lastError.isSome = true
      · rw [if_pos he] at h; cases h; exact hu
      · rw [if_neg he] at h; exact ih hu h
    | fault r => simp [hc] at h
    | refused r => simp [hc] at h

/-- What the decrement of the timers and every step keep, a tick keeps (R226). -/
theorem tick_induction {P : State → Prop} (htimers : ∀ s, P s → P s.decrementTimers)
    (hstep : ∀ s t, P s → step s = .next t → P t) {s t : State} (hs : P s) (h : tick s = .next t) : P t := by
  unfold tick at h
  by_cases hrun : s.lifecycle = .running
  · rw [if_pos hrun] at h; exact runBatch_induction hstep _ (htimers s hs) h
  · rw [if_neg hrun] at h; cases h; exact hs

/-- What every command of a list keeps, a run of the list keeps (R229). -/
theorem runCommands_induction {P : State → Prop} {cs : List Command}
    (hcommand : ∀ c ∈ cs, ∀ s t, P s → command c s = .next t → P t) {s t : State} (hs : P s)
    (h : runCommands cs s = .next t) : P t := by
  induction cs generalizing s with
  | nil => cases h; exact hs
  | cons c rest ih =>
    unfold runCommands at h
    cases hc : command c s with
    | next u =>
      simp only [hc] at h
      exact ih (fun c hc => hcommand c (List.mem_cons_of_mem _ hc)) (hcommand c List.mem_cons_self s u hs hc) h
    | fault r => simp [hc] at h
    | refused r => simp [hc] at h

/-- `load` answers a next state exactly when the image fits, and then the program reset of it (R241, R242). -/
theorem load_eq_next {bytes : List Byte} {s t : State} :
    command (.load bytes) s = .next t ↔
      bytes.length ≤ 3584 ∧ t = programReset { s with rom := bytes, programLoaded := true } := by
  change loadProgram bytes s = .next t ↔ _
  unfold loadProgram Config.maxProgramSize
  by_cases h : bytes.length ≤ 3584 <;> simp [h, eq_comm]

/-- `toggle` does nothing from Empty; else it sets the lifecycle state, from Reset on a cleared
display (R244). -/
theorem toggle_cases {s t : State} (h : toggle s = .next t) :
    t = s ∨ s.lifecycle ≠ .empty ∧ ∃ d l, t = (s.setDisp d).setLifecycle l := by
  unfold toggle at h
  cases hl : s.lifecycle <;> rw [hl] at h <;> cases h
  · exact .inl rfl
  · exact .inr ⟨by simp, clearedDisplay, .running, rfl⟩
  · exact .inr ⟨by simp, s.disp, .paused, rfl⟩
  · exact .inr ⟨by simp, s.disp, .running, rfl⟩

/-- `set_key` answers a next state only with an index in range, and then writes that latch (R245). -/
theorem setKey_next {k : Nat} {b : Bool} {s t : State} (h : command (.setKey k b) s = .next t) :
    t = s.setKey (BitVec.ofNat 4 k) b := by
  change setKeyLatch k b s = .next t at h
  unfold setKeyLatch at h
  split at h <;> cases h
  rfl

/-- Setting `cycles_per_frame` answers a next state only with a value in range, and then writes it (R247). -/
theorem setCyclesPerFrame_next {n : Int} {s t : State} (h : command (.setCyclesPerFrame n) s = .next t) :
    t = { s with cyclesPerFrame := n.toNat } := by
  change setCyclesPerFrame n s = .next t at h
  unfold setCyclesPerFrame at h
  split at h <;> cases h
  rfl

/-- The program reset of a loaded image that fits meets the invariant, whatever the state was (R241, R291). -/
theorem programReset_inv {s : State} (hsize : s.rom.length ≤ Config.maxProgramSize) (hl : s.programLoaded = true) :
    Inv (programReset s) where
  memory := Memory.ofProgram_wf _ hsize
  depth := Nat.zero_le _
  returns := by simp [programReset]
  pc := by simp [programReset, Config.programBase]
  size := hsize
  loaded _ := hl
  noImage h := by simp [programReset, hl] at h
  error h := absurd rfl h

/-- A change of the lifecycle state on any display keeps the invariant of a machine that is not Empty: it has a program
and no error. -/
theorem toggled_inv {s : State} (hs : Inv s) (hne : s.lifecycle ≠ .empty) (d : Display) (l : Lifecycle) :
    Inv ((s.setDisp d).setLifecycle l) :=
  { hs with
    loaded := fun _ => hs.loaded hne
    error := fun he => absurd (hs.error he).1 hne }

/-- Every host command keeps the invariant (R44, R255). -/
theorem command_inv (c : Command) {s t : State} (hs : Inv s) (h : command c s = .next t) : Inv t := by
  cases c with
  | load bytes =>
    obtain ⟨hle, rfl⟩ := load_eq_next.mp h
    exact programReset_inv hle rfl
  | resetToStart =>
    cases h
    by_cases hl : s.programLoaded = true
    · rw [if_pos hl]; exact programReset_inv hs.size hl
    · rw [if_neg hl]; exact hs
  | toggle =>
    rcases toggle_cases h with rfl | ⟨hne, d, l, rfl⟩
    · exact hs
    · exact toggled_inv hs hne d l
  | step => exact step_inv hs h
  | tick => exact tick_induction (fun _ hu => { hu with }) (fun _ _ => step_inv) hs h
  | setKey k b => cases setKey_next h; exact { hs with }
  | setShiftQuirkMode b => cases h; exact { hs with }
  | setCyclesPerFrame n => cases setCyclesPerFrame_next h; exact { hs with }

/-- Settles O58, by induction over the run. -/
theorem hostRunsKeepInvariant : Obligations.HostRunsKeepInvariant := fun _ _ _ hs h =>
  runCommands_induction (fun c _ _ _ => command_inv c) hs h

end Sys2Proof.Machine
end

section
/-! Words written as numbers decode to their instruction: each word of the opcode map is an encoding, and decoding an
encoding gives the instruction back (R92 to R96). -/

namespace Sys2Proof

open Laws in
/-- The masked word of an encoding is the match value of its row, for every row of the opcode map (R95, R96). -/
theorem rowMatch (i : Instr) : RowMatch.Statement i := by
  cases i with
  | cls => exact RowMatch.cls
  | ret => exact RowMatch.ret
  | jp => exact RowMatch.jp _
  | call => exact RowMatch.call _
  | seImm => exact RowMatch.seImm _ _
  | sneImm => exact RowMatch.sneImm _ _
  | seReg => exact RowMatch.seReg _ _
  | ldImm => exact RowMatch.ldImm _ _
  | addImm => exact RowMatch.addImm _ _
  | ldReg => exact RowMatch.ldReg _ _
  | orReg => exact RowMatch.orReg _ _
  | andReg => exact RowMatch.andReg _ _
  | xorReg => exact RowMatch.xorReg _ _
  | addReg => exact RowMatch.addReg _ _
  | subReg => exact RowMatch.subReg _ _
  | shr => exact RowMatch.shr _ _
  | subnReg => exact RowMatch.subnReg _ _
  | shl => exact RowMatch.shl _ _
  | sneReg => exact RowMatch.sneReg _ _
  | ldI => exact RowMatch.ldI _
  | jpV0 => exact RowMatch.jpV0 _
  | rnd => exact RowMatch.rnd _ _
  | drw => exact RowMatch.drw _ _ _
  | skp => exact RowMatch.skp _
  | sknp => exact RowMatch.sknp _
  | ldVxDt => exact RowMatch.ldVxDt _
  | ldVxK => exact RowMatch.ldVxK _
  | ldDtVx => exact RowMatch.ldDtVx _
  | ldStVx => exact RowMatch.ldStVx _
  | addIVx => exact RowMatch.addIVx _
  | ldFVx => exact RowMatch.ldFVx _
  | ldBVx => exact RowMatch.ldBVx _
  | ldMemVx => exact RowMatch.ldMemVx _
  | ldVxMem => exact RowMatch.ldVxMem _

/-- Decoding an encoding gives the instruction back: its row is found by `rowMatch`, its operands by the fields of its
format (R91, R96). -/
theorem decode_encode (i : Instr) : decode (encode i) = .ok i := by
  have h : encode i &&& maskOf (opOf (encode i)) = Laws.RowMatch.matchValue i := rowMatch i
  unfold decode
  rw [h]
  cases i <;> simp [Laws.RowMatch.matchValue, encode]

/-! A word of each format as a number, `base` being its fixed nibbles. -/

theorem decode_of_formatA {i : Instr} {base : Nat} (op : BitVec 4) (nnn : Addr12) (h : encode i = formatA op nnn)
    (hbase : base = 4096 * op.toNat) : decode (BitVec.ofNat 16 (base + nnn.toNat)) = .ok i := by
  rw [hbase, ← formatA_eq_ofNat, ← h, decode_encode]

theorem decode_of_formatI {i : Instr} {base : Nat} (op : BitVec 4) (x : RegIdx) (nn : Byte)
    (h : encode i = formatI op x nn) (hbase : base = 4096 * op.toNat) :
    decode (BitVec.ofNat 16 (base + 256 * x.toNat + nn.toNat)) = .ok i := by
  rw [hbase, ← formatI_eq_ofNat, ← h, decode_encode]

/-- Format S: the immediate is a fixed sub-opcode. -/
theorem decode_of_formatS {i : Instr} {base : Nat} (op : BitVec 4) (x : RegIdx) (nn : Byte)
    (h : encode i = formatI op x nn) (hbase : base = 4096 * op.toNat + nn.toNat) :
    decode (BitVec.ofNat 16 (base + 256 * x.toNat)) = .ok i := by
  rw [hbase, Nat.add_right_comm, ← formatI_eq_ofNat, ← h, decode_encode]

/-- Format R: the last nibble is a fixed sub-opcode. -/
theorem decode_of_formatR {i : Instr} {base : Nat} (op : BitVec 4) (x y : RegIdx) (n : BitVec 4)
    (h : encode i = formatR op x y n) (hbase : base = 4096 * op.toNat + n.toNat) :
    decode (BitVec.ofNat 16 (base + 256 * x.toNat + 16 * y.toNat)) = .ok i := by
  have hsum : base + 256 * x.toNat + 16 * y.toNat = 4096 * op.toNat + 256 * x.toNat + 16 * y.toNat + n.toNat := by omega
  rw [hsum, ← formatR_eq_ofNat, ← h, decode_encode]

/-- Format D: the last nibble is an operand. -/
theorem decode_of_formatD {i : Instr} {base : Nat} (op : BitVec 4) (x y : RegIdx) (n : BitVec 4)
    (h : encode i = formatR op x y n) (hbase : base = 4096 * op.toNat) :
    decode (BitVec.ofNat 16 (base + 256 * x.toNat + 16 * y.toNat + n.toNat)) = .ok i := by
  rw [hbase, ← formatR_eq_ofNat, ← h, decode_encode]

end Sys2Proof
end

section
/-! The display: what a blit does to every pixel and what it reports, row by row (spec/43_display.md, R182, R183). -/

namespace Sys2Proof.Machine

/-! ## Blits -/

/-- `q` is `p` after a blit of the pixels in `M`: those are complemented, every other pixel stays, and the collision is
reported if it was before or one of those pixels was lit (R182, R183). -/
structure Blits (M : Nat → Nat → Prop) (p q : Display × Bool) : Prop where
  flips : ∀ px py, px < 64 → py < 32 → M px py → pixel q.1 px py = !pixel p.1 px py
  keeps : ∀ px py, px < 64 → py < 32 → ¬ M px py → pixel q.1 px py = pixel p.1 px py
  hit : q.2 = true ↔ p.2 = true ∨ ∃ px py, px < 64 ∧ py < 32 ∧ M px py ∧ pixel p.1 px py = true

theorem Blits.refl (p : Display × Bool) : Blits (fun _ _ => False) p p where
  flips _ _ _ _ h := h.elim
  keeps _ _ _ _ _ := rfl
  hit := by simp

/-- Two blits of disjoint pixels are one blit of all of them. -/
theorem Blits.trans {M N : Nat → Nat → Prop} {p q r : Display × Bool} (hM : Blits M p q) (hN : Blits N q r)
    (disj : ∀ px py, M px py → ¬ N px py) : Blits (fun px py => M px py ∨ N px py) p r where
  flips px py hx hy h := by
    rcases h with h | h
    · rw [hN.keeps px py hx hy (disj px py h), hM.flips px py hx hy h]
    · rw [hN.flips px py hx hy h, hM.keeps px py hx hy fun hm => disj px py hm h]
  keeps px py hx hy h := by
    rw [hN.keeps px py hx hy fun hn => h (.inr hn), hM.keeps px py hx hy fun hm => h (.inl hm)]
  hit := by
    rw [hN.hit, hM.hit, or_assoc]
    refine or_congr_right ⟨?_, ?_⟩
    · rintro (⟨px, py, hx, hy, h, hlit⟩ | ⟨px, py, hx, hy, h, hlit⟩)
      · exact ⟨px, py, hx, hy, .inl h, hlit⟩
      · rw [hM.keeps px py hx hy fun hm => disj px py hm h] at hlit
        exact ⟨px, py, hx, hy, .inr h, hlit⟩
    · rintro ⟨px, py, hx, hy, h | h, hlit⟩
      · exact .inl ⟨px, py, hx, hy, h, hlit⟩
      · rw [← hM.keeps px py hx hy fun hm => disj px py hm h] at hlit
        exact .inr ⟨px, py, hx, hy, h, hlit⟩

/-- Only the pixels of the screen count. -/
theorem Blits.congr {M N : Nat → Nat → Prop} {p q : Display × Bool} (h : Blits M p q)
    (hMN : ∀ px py, px < 64 → py < 32 → (M px py ↔ N px py)) : Blits N p q where
  flips px py hx hy hn := h.flips px py hx hy ((hMN px py hx hy).mpr hn)
  keeps px py hx hy hn := h.keeps px py hx hy fun hm => hn ((hMN px py hx hy).mp hm)
  hit := by
    rw [h.hit]
    refine or_congr_right ⟨?_, ?_⟩ <;> rintro ⟨px, py, hx, hy, hm, hlit⟩
    · exact ⟨px, py, hx, hy, (hMN px py hx hy).mp hm, hlit⟩
    · exact ⟨px, py, hx, hy, (hMN px py hx hy).mpr hm, hlit⟩

/-! ## One byte -/

/-- Pixel (px, py) lies in display byte `k`, at a bit that is set in `b` (R33). -/
def byteSets (k : Fin 256) (b : Byte) (px py : Nat) : Prop :=
  dispIndex py (px / 8) = k ∧ b.getLsbD (7 - px % 8) = true

/-- Two bytes have a set bit in common exactly when their conjunction is not 0. -/
theorem and_ne_zero_iff (a b : Byte) : (a &&& b) ≠ 0 ↔ ∃ j < 8, a.getLsbD j = true ∧ b.getLsbD j = true := by
  constructor
  · intro h
    by_contra hno
    refine h (BitVec.eq_of_getLsbD_eq fun j hj => ?_)
    simp only [not_exists, not_and, Bool.not_eq_true] at hno
    cases ha : a.getLsbD j with
    | false => simp [ha]
    | true => simp [hno j hj ha]
  · rintro ⟨j, -, ha, hb⟩ h
    have := congrArg (BitVec.getLsbD · j) h
    simp [ha, hb] at this

/-- The bits of display byte `k` are the pixels in it: bit `j` is the one at column `8 * (k mod 8) + 7 - j` (R33). -/
theorem exists_pixel_of_bit (k : Fin 256) {j : Nat} (hj : j < 8) :
    ∃ px py, px < 64 ∧ py < 32 ∧ dispIndex py (px / 8) = k ∧ 7 - px % 8 = j := by
  have := k.isLt
  refine ⟨k.val % 8 * 8 + (7 - j), k.val / 8, by omega, by omega, Fin.ext ?_, by omega⟩
  simp only [dispIndex]
  omega

theorem blitByte_blits (k : Fin 256) (b : Byte) (p : Display × Bool) : Blits (byteSets k b) p (blitByte k b p) where
  flips px py _ _ h := by
    obtain ⟨rfl, hb⟩ := h
    simp only [pixel, blitByte_display, if_true, BitVec.getLsbD_xor, hb, Bool.xor_true]
  keeps px py _ _ h := by
    simp only [pixel, blitByte_display]
    by_cases hk : dispIndex py (px / 8) = k
    · have hb : b.getLsbD (7 - px % 8) = false := Bool.not_eq_true _ ▸ fun hb => h ⟨hk, hb⟩
      simp only [hk, if_true, BitVec.getLsbD_xor, hb, Bool.xor_false]
    · simp only [hk, if_false]
  hit := by
    rw [blitByte_hit, Bool.or_eq_true, bne_iff_ne, and_ne_zero_iff]
    refine or_congr_right ⟨?_, ?_⟩
    · rintro ⟨j, hj, hd, hb⟩
      obtain ⟨px, py, hx, hy, rfl, rfl⟩ := exists_pixel_of_bit k hj
      exact ⟨px, py, hx, hy, ⟨rfl, hb⟩, hd⟩
    · rintro ⟨px, py, -, -, ⟨rfl, hb⟩, hd⟩
      exact ⟨7 - px % 8, by omega, hd, hb⟩

/-! ## One row -/

/-- Pixel (px, py) lies under a set pixel of the sprite row `b` drawn at (`ox`, `row`), wrapped on both axes (R182, R183). -/
def rowSets (ox row : Nat) (b : Byte) (px py : Nat) : Prop :=
  ∃ j, j < 8 ∧ (ox + j) % 64 = px ∧ row % 32 = py ∧ b.getLsbD (7 - j) = true

/-- The two bytes of a sprite row hold its pixels: the first those up to the end of the origin's byte column, the second
the others (R182). -/
theorem byteSets_iff_rowSets {ox : Nat} (hox : ox < 64) (row : Nat) (b : Byte) (px py : Nat) (hx : px < 64) (hy : py < 32) :
    byteSets (dispIndex row (ox / 8)) (b >>> (ox % 8)) px py ∨
        byteSets (dispIndex row (ox / 8 + 1)) (b <<< (8 - ox % 8)) px py ↔ rowSets ox row b px py := by
  simp only [byteSets, dispIndex_eq_iff, BitVec.getLsbD_ushiftRight, BitVec.getLsbD_shiftLeft, Bool.and_eq_true,
    decide_eq_true_eq, Bool.not_eq_true', decide_eq_false_iff_not]
  constructor
  · rintro (⟨⟨hrow, hcol⟩, hb⟩ | ⟨⟨hrow, hcol⟩, ⟨-, hlt⟩, hb⟩)
    · have : ox % 8 + (7 - px % 8) < 8 := BitVec.lt_of_getLsbD hb
      exact ⟨px % 8 - ox % 8, by omega, by omega, by omega, by rw [← hb]; congr 1; omega⟩
    · exact ⟨px % 8 + (8 - ox % 8), by omega, by omega, by omega, by rw [← hb]; congr 1; omega⟩
  · rintro ⟨j, hj, hcol, hrow, hb⟩
    by_cases hfirst : ox % 8 + j < 8
    · exact .inl ⟨⟨by omega, by omega⟩, by rw [← hb]; congr 1; omega⟩
    · exact .inr ⟨⟨by omega, by omega⟩, ⟨by omega, by omega⟩, by rw [← hb]; congr 1; omega⟩

theorem blitRow_blits {ox : Nat} (hox : ox < 64) (row : Nat) (b : Byte) (p : Display × Bool) :
    Blits (rowSets ox row b) p (blitRow ox row b p) :=
  ((blitByte_blits _ _ p).trans (blitByte_blits _ _ _)
      fun _ _ hfirst hnext => dispIndex_next_ne row (ox / 8) (hnext.1.symm.trans hfirst.1)).congr
    (byteSets_iff_rowSets hox row b)

/-! ## All rows -/

/-- Pixel (px, py) lies under a set pixel of one of the rows, the first of them drawn at row `row`. -/
def rowsSet (ox row : Nat) (sprite : List Byte) (px py : Nat) : Prop :=
  ∃ r b, sprite[r]? = some b ∧ rowSets ox (row + r) b px py

theorem rowsSet_cons (ox row : Nat) (b : Byte) (rest : List Byte) (px py : Nat) :
    rowsSet ox row (b :: rest) px py ↔ rowSets ox row b px py ∨ rowsSet ox (row + 1) rest px py := by
  constructor
  · rintro ⟨r, b', hr, h⟩
    cases r with
    | zero => cases hr; exact .inl h
    | succ r => exact .inr ⟨r, b', hr, by rwa [Nat.add_assoc, Nat.add_comm 1]⟩
  · rintro (h | ⟨r, b', hr, h⟩)
    · exact ⟨0, b, rfl, h⟩
    · exact ⟨r + 1, b', hr, by rwa [Nat.add_comm r, ← Nat.add_assoc]⟩

/-- At most 32 rows lie on different rows of the display, so drawing them is one blit of all their pixels (R183). -/
theorem blitRows_blits {ox : Nat} (hox : ox < 64) (sprite : List Byte) (row : Nat) (p : Display × Bool)
    (hlen : sprite.length ≤ 32) : Blits (rowsSet ox row sprite) p (blitRows ox row sprite p) := by
  induction sprite generalizing row p with
  | nil => exact (Blits.refl p).congr fun _ _ _ _ => by simp [rowsSet]
  | cons b rest ih =>
    rw [List.length_cons] at hlen
    refine ((blitRow_blits hox row b p).trans (ih (row + 1) _ (by omega)) ?_).congr
      fun px py _ _ => (rowsSet_cons ox row b rest px py).symm
    rintro px py ⟨-, -, -, hrow, -⟩ ⟨r, b', hr, -, -, -, hrow', -⟩
    have : r < rest.length := (List.getElem?_eq_some_iff.mp hr).1
    omega

/-- A row leaves every display byte but its two as it was (R182). -/
theorem blitRow_display_of_ne {ox row : Nat} {k : Fin 256} (b : Byte) (p : Display × Bool)
    (h : k ≠ dispIndex row (ox / 8)) (h' : k ≠ dispIndex row (ox / 8 + 1)) : (blitRow ox row b p).1[k] = p.1[k] := by
  simp only [blitRow, blitByte_display, h, h', if_false]

/-- The rows leave every display byte outside them as it was (R182). -/
theorem blitRows_display_of_ne {ox : Nat} {k : Fin 256} (sprite : List Byte) (row : Nat) (p : Display × Bool)
    (h : ∀ r < sprite.length, k ≠ dispIndex (row + r) (ox / 8) ∧ k ≠ dispIndex (row + r) (ox / 8 + 1)) :
    (blitRows ox row sprite p).1[k] = p.1[k] := by
  induction sprite generalizing row p with
  | nil => rfl
  | cons b rest ih =>
    obtain ⟨hfirst, hnext⟩ := h 0 (Nat.succ_pos _)
    have hrest : ∀ r < rest.length, k ≠ dispIndex (row + 1 + r) (ox / 8) ∧ k ≠ dispIndex (row + 1 + r) (ox / 8 + 1) := by
      intro r hr
      rw [Nat.add_assoc, Nat.add_comm 1]
      exact h (r + 1) (Nat.succ_lt_succ hr)
    rw [blitRows, ih (row + 1) _ hrest]
    exact blitRow_display_of_ne b p hfirst hnext

/-! ## `Dxyn` -/

/-- The bytes a draw reads (R182). -/
def State.spriteBytes (s : State) (n : BitVec 4) : List Byte :=
  (List.range (spriteRows n)).map fun r => s.readByte (s.dataAddr + r)

/-- Display and collision after a draw. -/
def State.blitted (s : State) (x y : RegIdx) (n : BitVec 4) : Display × Bool :=
  blitRows (s.originX x) (s.originY y) (s.spriteBytes n) (s.disp, false)

theorem exec_drw_of_inside {x y : RegIdx} {n : BitVec 4} {s : State} (h : s.dataAddr + n.toNat < 4096) :
    exec (.drw x y n) s =
      .next (((s.setDisp (s.blitted x y n).1).setFlag (collisionFlag (s.blitted x y n).2)).setDirty true) := by
  have hl : s.loadBlock s.dataAddr (spriteRows n) = some (s.spriteBytes n) :=
    State.loadBlock_eq_some.mpr ⟨by rw [spriteRows, Config.spriteRowBias]; omega, rfl⟩
  change execDrw x y n s = _
  rw [execDrw, hl]
  rfl

theorem exec_drw_of_outside {x y : RegIdx} {n : BitVec 4} {s : State} (h : 4096 ≤ s.dataAddr + n.toNat) :
    exec (.drw x y n) s = .next (errorEntry .memoryOutOfRange s) := by
  have hl : s.loadBlock s.dataAddr (spriteRows n) = none :=
    State.loadBlock_eq_none.mpr (by rw [spriteRows, Config.spriteRowBias]; omega)
  change execDrw x y n s = _
  rw [execDrw, hl]
  rfl

/-- The pixels a draw blits are the ones the statements speak of. -/
theorem rowsSet_iff_spriteSets (s : State) (x y : RegIdx) (n : BitVec 4) (px py : Nat) :
    rowsSet (s.originX x) (s.originY y) (s.spriteBytes n) px py ↔ spriteSets s x y n px py := by
  have hget (r : Nat) (b : Byte) : (s.spriteBytes n)[r]? = some b ↔ r < spriteRows n ∧ s.readByte (s.dataAddr + r) = b := by
    by_cases hr : r < spriteRows n <;> simp [State.spriteBytes, hr]
  constructor
  · rintro ⟨r, b, hr, j, hj, hx, hy, hb⟩
    obtain ⟨hlt, rfl⟩ := (hget r b).mp hr
    exact ⟨r, j, hlt, hj, hx, hy, hb⟩
  · rintro ⟨r, j, hlt, hj, hx, hy, hb⟩
    exact ⟨r, _, (hget r _).mpr ⟨hlt, rfl⟩, j, hj, hx, hy, hb⟩

/-- A draw blits exactly the pixels under the sprite (R183): at most 16 rows are drawn. -/
theorem blitted_blits (s : State) (x y : RegIdx) (n : BitVec 4) :
    Blits (spriteSets s x y n) (s.disp, false) (s.blitted x y n) := by
  have hlen : (s.spriteBytes n).length ≤ 32 := by
    have := n.isLt
    simp only [State.spriteBytes, List.length_map, List.length_range, spriteRows, Config.spriteRowBias]
    omega
  exact (blitRows_blits (Nat.mod_lt _ (by decide)) _ _ _ hlen).congr fun px py _ _ => rowsSet_iff_spriteSets s x y n px py

/-- A draw changes only the display bytes its rows touch (R182). -/
theorem setDisp_blitted_onlyChanges (s : State) (x y : RegIdx) (n : BitVec 4) :
    OnlyChanges (fun c => ∃ k, spriteTouches s x y n k ∧ c = .display k) s (s.setDisp (s.blitted x y n).1) := by
  intro c hc
  cases c with
  | display k =>
    refine blitRows_display_of_ne _ _ _ fun r hr => ?_
    have hr : r < spriteRows n := by simpa [State.spriteBytes] using hr
    exact ⟨fun hk => hc ⟨k, ⟨r, hr, .inl hk⟩, rfl⟩, fun hk => hc ⟨k, ⟨r, hr, .inr hk⟩, rfl⟩⟩
  | _ => simp [Component.same]

/-- `VF` after a draw is 1 or 0, and 1 exactly on a collision (R182, R185). -/
theorem collisionFlag_eq_one_iff (hit : Bool) : collisionFlag hit = 1 ↔ hit = true := by cases hit <;> decide

theorem collisionFlag_eq_zero_or_one (hit : Bool) : collisionFlag hit = 0 ∨ collisionFlag hit = 1 := by
  cases hit <;> decide

/-- Settles O39: the bytes the rows miss are kept, by induction over the rows. -/
theorem drawTouchesOnlyItsRows : Obligations.DrawTouchesOnlyItsRows := by
  intro x y n s
  refine ⟨decode_of_formatD 0xD x y n rfl rfl, fun h => ⟨_, exec_drw_of_inside h, rfl, ?_, ?_⟩,
    fun h => ⟨_, exec_drw_of_outside h, errorEntry_taken _ s⟩⟩
  · simpa using collisionFlag_eq_zero_or_one (s.blitted x y n).2
  · refine (draw_onlyChanges s _ _ (setDisp_blitted_onlyChanges s x y n)).mono fun c hc => ?_
    rcases hc with hk | hreg | hdirty
    · exact .inr (.inr hk)
    · exact .inl hreg
    · exact .inr (.inl hdirty)

/-- Settles O40: a draw is one blit of the pixels under the sprite. -/
theorem drawComplementsPixelsUnderSprite : Obligations.DrawComplementsPixelsUnderSprite := by
  intro x y n s h
  have hblit := blitted_blits s x y n
  refine ⟨_, exec_drw_of_inside h, fun px py hx hy => ⟨hblit.flips px py hx hy, hblit.keeps px py hx hy⟩, ?_, ?_⟩
  · have hhit := hblit.hit
    simp only [Bool.false_eq_true, false_or] at hhit
    rw [← hhit, ← collisionFlag_eq_one_iff]
    simp
  · simpa using (collisionFlag_eq_zero_or_one (s.blitted x y n).2).symm

end Sys2Proof.Machine
end

section
/-! The reset column of R43, `load` and `reset_to_start` (R241, R243), and what the host sees of display and sound
(R187, R249). -/

namespace Sys2Proof.Machine

/-! ## What every command but `load` keeps -/

theorem beginCycle_onlyChanges (s : State) : OnlyChanges (· = .lastError) s s.beginCycle := by
  intro c hc
  cases c <;> simp_all [Component.same, State.beginCycle]

/-- The host's settings are none of the parts that a cycle or error entry writes on its own (R222, R286). -/
theorem Component.isHostSetting_ne {c : Component} (hc : c.isHostSetting) :
    c ≠ .lastError ∧ c ≠ .lifecycle ∧ c ≠ .pc ∧ ¬ c.isDisplay := by
  rcases hc with rfl | rfl | rfl | rfl <;> simp [Component.isDisplay]

/-- A step keeps the host's settings, the retained image and the parameters, in each of its three cases (R220, R300). -/
theorem step_same_of_isHostSetting {c : Component} (hc : c.isHostSetting) {s t : State} (h : step s = .next t) :
    c.same s t := by
  obtain ⟨hne_error, hne_lifecycle, hne_pc, hne_display⟩ := Component.isHostSetting_ne hc
  have herror (e : ErrorKind) (u : State) : c.same u (errorEntry e u) := by
    obtain ⟨-, -, -, hframe⟩ := errorEntry_taken e u
    exact hframe c (by simp [hne_error, hne_lifecycle, hne_display])
  have hbegin : c.same s s.beginCycle := beginCycle_onlyChanges s c hne_error
  have hadvance : c.same s s.beginCycle.advance := Component.same_trans hbegin (setPc_onlyChanges _ _ c hne_pc)
  rcases step_cases s with ⟨-, hstep⟩ | ⟨-, -, hstep⟩ | ⟨-, i, -, hstep⟩ <;> rw [hstep] at h
  · cases h; exact Component.same_trans hbegin (herror _ _)
  · cases h; exact Component.same_trans hadvance (herror _ _)
  · rcases exec_cases h with ⟨e, rfl⟩ | ⟨hframe, -⟩
    · exact Component.same_trans hadvance (herror _ _)
    · exact Component.same_trans hadvance (hframe c (not_mayWrite (.inl hc)))

/-- A program is loaded, its retained image is `image` and the machine's parameters are `params` (R38). -/
structure Retains (image : List Byte) (params : Params) (s : State) : Prop where
  rom : s.rom = image
  loaded : s.programLoaded = true
  params : s.params = params

theorem load_retains (bytes : List Byte) (s : State) :
    Retains bytes s.params (programReset { s with rom := bytes, programLoaded := true }) := ⟨rfl, rfl, rfl⟩

theorem step_retains {image : List Byte} {params : Params} {s t : State} (hs : Retains image params s)
    (h : step s = .next t) : Retains image params t := by
  obtain ⟨hrom, hloaded⟩ := step_same_of_isHostSetting (c := .program) (.inr (.inr (.inl rfl))) h
  have hparams : t.params = s.params := step_same_of_isHostSetting (c := .params) (.inr (.inr (.inr rfl))) h
  exact ⟨hrom.trans hs.rom, hloaded.trans hs.loaded, hparams.trans hs.params⟩

/-- No command but `load` changes the retained image (R38, R243). -/
theorem command_retains {c : Command} (hc : ∀ bytes, c ≠ .load bytes) {image : List Byte} {params : Params} {s t : State}
    (hs : Retains image params s) (h : command c s = .next t) : Retains image params t := by
  cases c with
  | load bytes => exact absurd rfl (hc bytes)
  | resetToStart => cases h; rw [if_pos hs.loaded]; exact { hs with }
  | toggle => rcases toggle_cases h with rfl | ⟨-, d, l, rfl⟩ <;> exact { hs with }
  | step => exact step_retains hs h
  | tick => exact tick_induction (fun _ hu => { hu with }) (fun _ _ => step_retains) hs h
  | setKey k b => cases setKey_next h; exact { hs with }
  | setShiftQuirkMode b => cases h; exact { hs with }
  | setCyclesPerFrame n => cases setCyclesPerFrame_next h; exact { hs with }

/-- Two machines that retain the same image differ after a program reset in nothing but what the reset keeps. -/
theorem programReset_eq_of_retains {s u : State} (hu : Retains s.rom s.params u) (hs : s.programLoaded = true) :
    programReset u = { programReset s with
      keys := u.keys
      shiftQuirk := u.shiftQuirk
      cyclesPerFrame := u.cyclesPerFrame
      randomInput := u.randomInput
      randomDraws := u.randomDraws } := by
  obtain ⟨hrom, hloaded, hparams⟩ := hu
  simp only [programReset, hrom, hloaded, hparams, hs]

/-- Settles O48: what the commands after the load keep is the retained image, and the reset is a function of it. -/
theorem resetToStartRestoresLoadedState : Obligations.ResetToStartRestoresLoadedState := by
  refine ⟨fun s hs => ?_, fun bytes s t u cs hload hcs hrun => ?_⟩
  · simp [command, resetToStart, hs]
  · obtain ⟨-, rfl⟩ := load_eq_next.mp hload
    have hu : Retains bytes s.params u :=
      runCommands_induction (fun c hc _ _ => command_retains (hcs c hc)) (load_retains bytes s) hrun
    change Host.Outcome.next (if u.programLoaded then programReset u else u) = _
    rw [if_pos hu.loaded, programReset_eq_of_retains (s := { s with rom := bytes, programLoaded := true }) hu rfl]

/-! ## Load and power-on -/

/-- No pixel of a cleared display is lit (R180). -/
theorem pixel_clearedDisplay (px py : Nat) : pixel clearedDisplay px py = false := by
  simp [pixel, clearedDisplay]

theorem background_of_lt (font : Vector Byte 80) {a : Nat} (h : a < 80) : Memory.background font a = font[a] := dif_pos h

theorem background_of_ge (font : Vector Byte 80) {a : Nat} (h : 80 ≤ a) : Memory.background font a = 0 :=
  dif_neg (Nat.not_lt.mpr h)

/-- A register of sixteen zeros. -/
theorem reg_of_zeros {s : State} (h : s.v = Vector.replicate 16 0) (x : RegIdx) : s.reg x = 0 := by
  simp [State.reg, h]

/-- Every byte of memory after a `load`: the image from 512 up, the background elsewhere (R241). -/
theorem load_readByte (bytes : List Byte) (s : State) (a : Nat) :
    (programReset { s with rom := bytes, programLoaded := true }).readByte a =
      if 512 ≤ a then (bytes[a - 512]?).getD (Memory.background s.params.font a)
      else Memory.background s.params.font a := Memory.read_ofProgram _ _ _

/-- Settles O45: memory byte by byte, the other parts as the program reset writes or keeps them. -/
theorem loadRebuildsTheMachine : Obligations.LoadRebuildsTheMachine := by
  intro bytes s hlen
  refine ⟨_, load_eq_next.mpr ⟨hlen, rfl⟩, ?_, ?_, ?_, ?_, reg_of_zeros rfl, rfl, rfl, rfl, rfl, rfl,
    pixel_clearedDisplay, rfl, rfl, rfl, rfl, rfl, rfl, rfl, rfl, rfl⟩
  · intro a h
    rw [load_readByte, if_neg (by omega), background_of_lt _ h]
  · intro a h h'
    rw [load_readByte, if_neg (by omega), background_of_ge _ h]
  · intro k h
    simp [load_readByte, h]
  · intro a h _
    rw [load_readByte, if_pos (by omega), List.getElem?_eq_none (by omega), Option.getD_none,
      background_of_ge _ (by omega)]

/-- Settles O55: memory reads as its background, and every other part is the table's value by definition. -/
theorem powerOnStateIsTheTable : Obligations.PowerOnStateIsTheTable :=
  ⟨fun _ h => background_of_lt _ h, fun _ h _ => background_of_ge _ h, reg_of_zeros rfl, rfl, rfl, rfl, rfl, rfl,
    pixel_clearedDisplay, fun k => by simp [State.key, State.reset], rfl, rfl, rfl, rfl, rfl⟩

/-! ## Views -/

/-- A byte is 0 exactly when its number is. -/
theorem byte_ne_zero_iff (b : Byte) : (b != 0) = true ↔ b.toNat ≠ 0 := by
  rw [bne_iff_ne, ne_eq, ← BitVec.toNat_inj]
  rfl

/-- Settles O54: element `py * 64 + px` is the one of column `px` and row `py`. -/
theorem viewsShowDisplayAndSound : Obligations.ViewsShowDisplayAndSound := by
  intro s
  refine ⟨s.disp.length_toList, fun k => ?_, by simp [displayExpanded], fun px py hx hy => ?_, byte_ne_zero_iff s.st⟩
  · simp [displayPacked]
  · have hcol : (py * 64 + px) % 64 = px := by omega
    have hrow : (py * 64 + px) / 64 = py := by omega
    have hlt : py * 64 + px < 2048 := by omega
    simp only [displayExpanded, List.getElem?_map, List.getElem?_range hlt, Option.map_some, hcol, hrow]

end Sys2Proof.Machine
end

section
/-! Control flow and key skips: `00EE`, `2nnn` and the six skips (R121, R123, R125 to R128, R200, R201). -/

namespace Sys2Proof.Machine

/-- Settles O15: the newest entry is the last of the view and the first of the model's list (D28). -/
theorem returnPopsTheNewestAddress : Obligations.ReturnPopsTheNewestAddress := by
  refine ⟨decode_encode .ret, fun s => ⟨fun older a h => ?_, fun h => ?_⟩⟩
  · have hstack : s.stack = a :: older.reverse := by
      rw [← List.reverse_reverse s.stack, show s.stack.reverse = older ++ [a] from h, List.reverse_append]
      rfl
    have hpop : s.pop = some (a, s.setStack older.reverse) := pop_eq_some.mpr ⟨_, hstack, rfl⟩
    refine ⟨(s.setStack older.reverse).setPc a, ?_, rfl, List.reverse_reverse older,
      .trans ((setStack_onlyChanges s _).mono fun _ => .inr) ((setPc_onlyChanges _ a).mono fun _ => .inl)⟩
    change execRet s = _
    rw [execRet, hpop]
    rfl
  · refine ⟨_, ?_, errorEntry_taken _ s⟩
    change execRet s = _
    rw [execRet, pop_eq_none.mpr (List.length_eq_zero_iff.mp h)]
    rfl

/-- Settles O17. NNN has 12 bits, so `PC` gets it unreduced. -/
theorem callPushesReturnAddress : Obligations.CallPushesReturnAddress := by
  refine fun nnn s => ⟨decode_of_formatA 0x2 nnn rfl rfl, fun h => ?_, fun h => ?_⟩
  · refine ⟨(s.setStack (s.pc :: s.stack)).setPc (nnn.setWidth 16), ?_, ?_, List.reverse_cons,
      .trans ((setStack_onlyChanges s _).mono fun _ => .inr) ((setPc_onlyChanges _ _).mono fun _ => .inl)⟩
    · change execCall nnn s = _
      rw [execCall, push_eq_some.mpr ⟨h, rfl⟩]
      rfl
    · exact BitVec.toNat_setWidth_of_le (by decide)
  · refine ⟨_, ?_, errorEntry_taken _ s⟩
    change execCall nnn s = _
    rw [execCall, push_eq_none.mpr h]
    rfl

/-- `PC` after a skip instruction, as a number, from what its condition says (R25, R120). -/
theorem skipIf_pc_toNat (s : State) (c : Bool) :
    (s.skipIf c).pc.toNat = (s.pc.toNat + if c then 2 else 0) % 65536 := by
  have := s.pc.isLt
  cases c
  · simp only [State.skipIf_false, Bool.false_eq_true, if_false]; omega
  · simp only [State.skipIf_true, State.setPc_pc, BitVec.toNat_add, BitVec.reduceToNat, if_true]

/-- Equality of two bytes is equality of their numbers. -/
theorem byte_beq_iff (a b : Byte) : (a == b) = true ↔ a.toNat = b.toNat := by
  rw [beq_iff_eq, BitVec.toNat_inj]

/-- A skip on equality: `PC` advances when the two bytes are equal; nothing else changes (R125, R127). -/
theorem skipIf_beq (s : State) (a b : Byte) : OnlyChanges (· = .pc) s (s.skipIf (a == b)) ∧
    (s.skipIf (a == b)).pc.toNat = (s.pc.toNat + if a.toNat = b.toNat then 2 else 0) % 65536 := by
  refine ⟨skipIf_onlyChanges s _, ?_⟩
  simp only [skipIf_pc_toNat, byte_beq_iff]

/-- A skip on inequality (R126, R128). -/
theorem skipIf_bne (s : State) (a b : Byte) : OnlyChanges (· = .pc) s (s.skipIf (a != b)) ∧
    (s.skipIf (a != b)).pc.toNat = (s.pc.toNat + if a.toNat = b.toNat then 0 else 2) % 65536 := by
  refine ⟨skipIf_onlyChanges s _, ?_⟩
  simp only [skipIf_pc_toNat, bne, Bool.not_eq_true', ← Bool.not_eq_true, byte_beq_iff, ite_not]

/-- Settles O19, by the two kinds of skip. -/
theorem immediateSkipsCompareRegister : Obligations.ImmediateSkipsCompareRegister := fun x nn s =>
  ⟨decode_of_formatI 0x3 x nn rfl rfl, decode_of_formatI 0x4 x nn rfl rfl,
    ⟨_, rfl, skipIf_beq s (s.reg x) nn⟩, ⟨_, rfl, skipIf_bne s (s.reg x) nn⟩⟩

/-- Settles O20, by the two kinds of skip. -/
theorem registerSkipsCompareRegisters : Obligations.RegisterSkipsCompareRegisters := fun x y s =>
  ⟨decode_of_formatR 0x5 x y 0 rfl rfl, decode_of_formatR 0x9 x y 0 rfl rfl,
    ⟨_, rfl, skipIf_beq s (s.reg x) (s.reg y)⟩, ⟨_, rfl, skipIf_bne s (s.reg x) (s.reg y)⟩⟩

/-- Settles O42: `k` is the low nibble of `V[x]`, whose latch is the condition. -/
theorem keySkipsReadTheLatch : Obligations.KeySkipsReadTheLatch := by
  intro x s k hk
  obtain rfl : k = s.lowNibble x := BitVec.eq_of_toNat_eq (hk.trans (lowNibble_toNat s x).symm)
  refine ⟨decode_of_formatS 0xE x 0x9E rfl rfl, decode_of_formatS 0xE x 0xA1 rfl rfl,
    ⟨_, rfl, skipIf_onlyChanges s _, skipIf_pc_toNat s _⟩, ⟨_, rfl, skipIf_onlyChanges s _, ?_⟩⟩
  rw [skipIf_pc_toNat]
  cases s.key (s.lowNibble x) <;> rfl

/-! ## One write: `00E0` and `Fx1E` -/

/-- Settles O38: the display is the cleared one. -/
theorem clearMakesEveryPixelDark : Obligations.ClearMakesEveryPixelDark :=
  ⟨decode_encode .cls, fun s => ⟨_, rfl, pixel_clearedDisplay, setDisp_onlyChanges s clearedDisplay⟩⟩

/-- Settles O31: the one write is to `I`, a 16-bit sum. -/
theorem addToIndexWrapsWithoutFlag : Obligations.AddToIndexWrapsWithoutFlag := by
  intro x s
  refine ⟨decode_of_formatS 0xF x 0x1E rfl rfl, _, rfl, ?_, setIndex_onlyChanges s _⟩
  rw [State.setIndex_i, BitVec.toNat_add, BitVec.toNat_setWidth_of_le (by decide)]

end Sys2Proof.Machine
end

section
/-! The flag-setting instructions `8xy4` to `8xyE`: the flag is written first, then `V[x]` (R140). -/

namespace Sys2Proof.Machine

/-- The flag register after the two writes, when `V[x]` is another register (R140). -/
theorem reg_regF_setFlag_setReg (s : State) {x : RegIdx} (f b : Byte) (h : x ≠ regF) :
    ((s.setFlag f).setReg x b).reg regF = f := by
  rw [State.reg_setReg_ne _ _ h.symm, State.setFlag_eq, State.reg_setReg_self]

/-- Settles O25: with X = F the sum overwrites the flag. -/
theorem addSetsCarryThenSum : Obligations.AddSetsCarryThenSum := by
  intro x y s
  refine ⟨decode_of_formatR 0x8 x y 4 rfl rfl, _, rfl, setFlag_setReg_onlyChanges s x _ _, ?_, fun hx => ?_⟩
  · rw [State.reg_setReg_self, BitVec.toNat_add]
  · rw [reg_regF_setFlag_setReg _ _ _ hx, carryFlag, flagByte_toNat]
    simp only [decide_eq_true_eq]

/-- A register as the difference reads it: `VF` is the flag just written (R140). -/
theorem reg_setFlag_toNat (s : State) (r : RegIdx) (f : Byte) :
    ((s.setFlag f).reg r).toNat = if r = regF then f.toNat else (s.reg r).toNat := by
  rw [State.setFlag_eq, State.reg_setReg]
  split <;> rfl

theorem notBorrowFlag_toNat (a b : Byte) : (notBorrowFlag a b).toNat = if a.toNat ≥ b.toNat then 1 else 0 := by
  simp only [notBorrowFlag, flagByte_toNat, decide_eq_true_eq]

/-- A subtraction writes the not-borrow flag, then the difference of the registers as they are after it, and nothing
else (R140, R149, R151). -/
theorem subtractInto_spec (x m d : RegIdx) (s : State) :
    OnlyChanges (fun c => c = .reg x ∨ c = .reg regF) s (subtractInto x m d s) ∧
      ∀ f : Nat, f = (if (s.reg m).toNat ≥ (s.reg d).toNat then 1 else 0) →
        ((subtractInto x m d s).reg x).toNat =
          ((if m = regF then f else (s.reg m).toNat) + 256 - (if d = regF then f else (s.reg d).toNat)) % 256 ∧
        (x ≠ regF → ((subtractInto x m d s).reg regF).toNat = f) := by
  refine ⟨setFlag_setReg_onlyChanges s x _ _, ?_⟩
  rintro f rfl
  rw [← notBorrowFlag_toNat]
  refine ⟨?_, fun hx => by rw [subtractInto, reg_regF_setFlag_setReg _ _ _ hx]⟩
  rw [subtractInto, State.reg_setReg_self, ← reg_setFlag_toNat, ← reg_setFlag_toNat, BitVec.toNat_sub]
  have := ((s.setFlag (notBorrowFlag (s.reg m) (s.reg d))).reg d).isLt
  congr 1
  omega

/-- Settles O26: `V[x]` is the minuend. -/
theorem subtractSetsNotBorrowThenDifference : Obligations.SubtractSetsNotBorrowThenDifference := fun x y s =>
  ⟨decode_of_formatR 0x8 x y 5 rfl rfl, _, rfl, subtractInto_spec x x y s⟩

/-- Settles O27: `V[x]` is the subtrahend. -/
theorem reverseSubtractSetsNotBorrowThenDifference : Obligations.ReverseSubtractSetsNotBorrowThenDifference :=
  fun x y s => ⟨decode_of_formatR 0x8 x y 7 rfl rfl, _, rfl, subtractInto_spec x y x s⟩

theorem shiftTarget_toNat (s : State) (x y : RegIdx) :
    (s.shiftTarget x y).toNat = if s.shiftQuirk then (s.reg y).toNat else (s.reg x).toNat := by
  unfold State.shiftTarget
  split <;> rfl

theorem shiftRight_toNat (b : Byte) : (b >>> 1).toNat = b.toNat / 2 := by
  rw [BitVec.toNat_ushiftRight, Nat.shiftRight_eq_div_pow]

theorem shiftLeft_toNat (b : Byte) : (b <<< 1).toNat = 2 * b.toNat % 256 := by
  rw [BitVec.toNat_shiftLeft, Nat.shiftLeft_eq, Nat.mul_comm]

theorem shiftRightFlag_toNat (b : Byte) : (shiftRightFlag b).toNat = b.toNat % 2 := by
  rw [shiftRightFlag, BitVec.toNat_and]
  exact Nat.and_one_is_mod _

theorem shiftLeftFlag_toNat (b : Byte) : (shiftLeftFlag b).toNat = b.toNat / 128 := by
  rw [shiftLeftFlag, BitVec.toNat_ushiftRight, Nat.shiftRight_eq_div_pow]

/-- Settles O28: the target is read before either write. -/
theorem shiftsMoveTargetByOneBit : Obligations.ShiftsMoveTargetByOneBit := by
  refine fun x y s => ⟨decode_of_formatR 0x8 x y 6 rfl rfl, decode_of_formatR 0x8 x y 0xE rfl rfl, ?_⟩
  rintro target htarget
  obtain rfl := htarget.trans (shiftTarget_toNat s x y).symm
  refine ⟨⟨_, rfl, setFlag_setReg_onlyChanges s x _ _, ?_, fun hx => ?_⟩,
    ⟨_, rfl, setFlag_setReg_onlyChanges s x _ _, ?_, fun hx => ?_⟩⟩
  · rw [State.reg_setReg_self, shiftRight_toNat]
  · rw [reg_regF_setFlag_setReg _ _ _ hx, shiftRightFlag_toNat]
  · rw [State.reg_setReg_self, shiftLeft_toNat]
  · rw [reg_regF_setFlag_setReg _ _ _ hx, shiftLeftFlag_toNat]

end Sys2Proof.Machine
end

section
/-! Block stores and loads: `Fx33`, `Fx55`, `Fx65` (R165 to R167), and the fetch that follows a store (R75). -/

namespace Sys2Proof.Machine

/-! ## One block -/

/-- A block store of `f 0 .. f (n-1)` inside memory: what every byte reads as after it, and that nothing else changes
(R64, R68, R75). -/
theorem storeBlock_of_inside {s : State} {a n : Nat} (f : Nat → Byte) (h : a + n ≤ 4096) :
    ∃ t, s.storeBlock a ((List.range n).map f) = some t ∧ (∀ b, t.readByte b = s.byteAfterStore a n f b) ∧
      OnlyChanges (Component.isMemoryAt a n) s t := by
  have hlen : ((List.range n).map f).length = n := by rw [List.length_map, List.length_range]
  have hstore : s.storeBlock a ((List.range n).map f) = some _ :=
    State.storeBlock_eq_some.mpr ⟨by rwa [hlen], rfl⟩
  have hframe := storeBlock_onlyChanges hstore
  rw [hlen] at hframe
  refine ⟨_, hstore, fun b => ?_, hframe⟩
  rw [State.readByte_setMem_writeBytes, State.byteAfterStore]
  by_cases hb : a ≤ b ∧ b < a + n
  · have hk : b - a < n := by omega
    simp [hb, hk]
  · rw [if_neg hb]
    split
    · rw [List.getElem?_eq_none (by omega), Option.getD_none]
    · rfl

/-- A stored byte, counted from the start of the block. -/
theorem byteAfterStore_add {s : State} {a n k : Nat} (f : Nat → Byte) (hk : k < n) :
    s.byteAfterStore a n f (a + k) = f k := by
  rw [State.byteAfterStore_of_covered f (by omega) (by omega), Nat.add_sub_cancel_left]

/-- `I` after a block move, as a number (R166, R167, D34). -/
theorem advanceIndex_toNat (s : State) (x : RegIdx) :
    (s.advanceIndex x).i.toNat = (s.i.toNat + x.toNat + 1) % 65536 := by
  rw [State.advanceIndex_eq, State.setIndex_i, BitVec.toNat_add, BitVec.toNat_ofNat, blockSize]
  omega

/-! ## `Fx33` -/

/-- Decimal digit `k` of a byte, the hundreds being digit 0 (R165). -/
def decimalDigit (b : Byte) (k : Nat) : Byte := BitVec.ofNat 8 (b.toNat / 10 ^ (2 - k) % 10)

theorem decimalDigit_toNat (b : Byte) (k : Nat) : (decimalDigit b k).toNat = b.toNat / 10 ^ (2 - k) % 10 := by
  have : b.toNat / 10 ^ (2 - k) % 10 < 10 := Nat.mod_lt _ (by decide)
  rw [decimalDigit, BitVec.toNat_ofNat]
  omega

/-- A byte is below 1000, so its hundreds are one digit. -/
theorem bcdDigits_eq (b : Byte) : bcdDigits b = (List.range 3).map (decimalDigit b) := by
  have hundreds : b.toNat / 100 = b.toNat / 100 % 10 := by have := b.isLt; omega
  rw [bcdDigits, hundreds]
  simp [List.range_succ, decimalDigit]

/-- `Fx33` inside memory: three digits are stored and nothing else changes (R165). -/
theorem exec_ldBVx_of_inside {x : RegIdx} {s : State} (h : s.dataAddr + 2 < 4096) :
    ∃ t, exec (.ldBVx x) s = .next t ∧
      (∀ b, t.readByte b = s.byteAfterStore s.dataAddr 3 (decimalDigit (s.reg x)) b) ∧
      OnlyChanges (Component.isMemoryAt s.dataAddr 3) s t := by
  obtain ⟨t, hstore, hread, hframe⟩ := storeBlock_of_inside (s := s) (n := 3) (decimalDigit (s.reg x)) h
  refine ⟨t, ?_, hread, hframe⟩
  change execLdBVx x s = _
  rw [execLdBVx, bcdDigits_eq, hstore]
  rfl

theorem exec_ldBVx_of_outside {x : RegIdx} {s : State} (h : 4096 ≤ s.dataAddr + 2) :
    exec (.ldBVx x) s = .next (errorEntry .memoryOutOfRange s) := by
  change execLdBVx x s = _
  rw [execLdBVx, State.storeBlock_eq_none.mpr (by rw [bcdDigits_eq]; exact Nat.lt_succ_of_le h)]
  rfl

/-- Settles O33: the three stored bytes are the three digits. -/
theorem decimalDigitsAreStored : Obligations.DecimalDigitsAreStored := by
  refine fun x s => ⟨decode_of_formatS 0xF x 0x33 rfl rfl, fun h => ?_,
    fun h => ⟨_, exec_ldBVx_of_outside h, errorEntry_taken _ s⟩⟩
  obtain ⟨t, hexec, hread, hframe⟩ := exec_ldBVx_of_inside (x := x) h
  have hdigit {k : Nat} (hk : k < 3) : (t.readByte (s.dataAddr + k)).toNat = (s.reg x).toNat / 10 ^ (2 - k) % 10 := by
    rw [hread, byteAfterStore_add _ hk, decimalDigit_toNat]
  refine ⟨t, hexec, ?_, hdigit (k := 1) (by decide), ?_, hframe⟩
  · exact (hdigit (k := 0) (by decide)).trans (by have := (s.reg x).isLt; omega)
  · rw [hdigit (k := 2) (by decide), Nat.sub_self, Nat.pow_zero, Nat.div_one]

/-! ## `Fx55` -/

/-- The block `Fx55` stores, register by register (R166). -/
theorem regsUpTo_eq (s : State) (x : RegIdx) :
    s.regsUpTo x = (List.range (x.toNat + 1)).map fun k => s.reg (BitVec.ofNat 4 k) := by
  refine List.ext_getElem (by simp [blockSize]) fun k hk _ => ?_
  have hnum : (BitVec.ofNat 4 k).toNat = k := by
    have := x.isLt
    rw [State.regsUpTo_length, blockSize] at hk
    rw [BitVec.toNat_ofNat]
    omega
  have := State.regsUpTo_getElem s x (BitVec.ofNat 4 k) (by rwa [hnum])
  simpa [hnum] using this

/-- `Fx55` inside memory: V[0..x] are stored, `I` advances and nothing else changes (R166). -/
theorem exec_ldMemVx_of_inside {x : RegIdx} {s : State} (h : s.dataAddr + x.toNat < 4096) :
    ∃ t, exec (.ldMemVx x) s = .next t ∧
      (∀ b, t.readByte b = s.byteAfterStore s.dataAddr (x.toNat + 1) (fun k => s.reg (BitVec.ofNat 4 k)) b) ∧
      t.i.toNat = (s.i.toNat + x.toNat + 1) % 65536 ∧
      OnlyChanges (fun c => c.isMemoryAt s.dataAddr (x.toNat + 1) ∨ c = .index) s t := by
  obtain ⟨u, hstore, hread, hframe⟩ :=
    storeBlock_of_inside (s := s) (n := x.toNat + 1) (fun k => s.reg (BitVec.ofNat 4 k)) h
  have hindex : u.i = s.i := hframe .index (by simp [Component.isMemoryAt])
  refine ⟨u.advanceIndex x, ?_, hread, by rw [advanceIndex_toNat, hindex],
    .trans (hframe.mono fun _ => .inl) ((setIndex_onlyChanges _ _).mono fun _ => .inr)⟩
  change execLdMemVx x s = _
  rw [execLdMemVx, regsUpTo_eq, hstore]
  rfl

theorem exec_ldMemVx_of_outside {x : RegIdx} {s : State} (h : 4096 ≤ s.dataAddr + x.toNat) :
    exec (.ldMemVx x) s = .next (errorEntry .memoryOutOfRange s) := by
  change execLdMemVx x s = _
  rw [execLdMemVx, State.storeBlock_eq_none.mpr (by rw [State.regsUpTo_length]; exact Nat.lt_succ_of_le h)]
  rfl

/-- Settles O34: byte r of the stored block is `V[r]`. -/
theorem registersAreStored : Obligations.RegistersAreStored := by
  refine fun x s => ⟨decode_of_formatS 0xF x 0x55 rfl rfl, fun h => ?_,
    fun h => ⟨_, exec_ldMemVx_of_outside h, errorEntry_taken _ s⟩⟩
  obtain ⟨t, hexec, hread, hindex, hframe⟩ := exec_ldMemVx_of_inside h
  refine ⟨t, hexec, fun r hr => ?_, hindex, hframe⟩
  rw [hread, byteAfterStore_add _ (Nat.lt_succ_of_le hr), BitVec.ofNat_toNat, BitVec.setWidth_eq]

/-! ## `Fx65` -/

/-- The bytes of a block that lies inside memory (R63, R65). -/
def State.blockAt (s : State) (a n : Nat) : List Byte := (List.range n).map fun k => s.readByte (a + k)

theorem loadBlock_of_inside {s : State} {a n : Nat} (h : a + n ≤ 4096) : s.loadBlock a n = some (s.blockAt a n) :=
  State.loadBlock_eq_some.mpr ⟨h, rfl⟩

theorem exec_ldVxMem_of_inside {x : RegIdx} {s : State} (h : s.dataAddr + x.toNat < 4096) :
    exec (.ldVxMem x) s = .next ((s.setRegs (s.blockAt s.dataAddr (blockSize x))).advanceIndex x) := by
  change execLdVxMem x s = _
  rw [execLdVxMem, loadBlock_of_inside h]
  rfl

theorem exec_ldVxMem_of_outside {x : RegIdx} {s : State} (h : 4096 ≤ s.dataAddr + x.toNat) :
    exec (.ldVxMem x) s = .next (errorEntry .memoryOutOfRange s) := by
  change execLdVxMem x s = _
  rw [execLdVxMem, State.loadBlock_eq_none.mpr (Nat.lt_succ_of_le h)]
  rfl

/-- Register r of a block load is the byte at its place in the block (R167). -/
theorem reg_setRegs_blockAt {s : State} {a n : Nat} {r : RegIdx} (h : r.toNat < n) :
    (s.setRegs (s.blockAt a n)).reg r = s.readByte (a + r.toNat) := by
  simp [State.reg_setRegs, State.blockAt, h]

/-- Settles O35: the block has a byte for each register up to `V[x]` and none for those above. -/
theorem registersAreLoaded : Obligations.RegistersAreLoaded := by
  refine fun x s => ⟨decode_of_formatS 0xF x 0x65 rfl rfl, fun h => ⟨_, exec_ldVxMem_of_inside h, fun r hr => ?_,
    advanceIndex_toNat _ x, ?_⟩, fun h => ⟨_, exec_ldVxMem_of_outside h, errorEntry_taken _ s⟩⟩
  · exact reg_setRegs_blockAt (Nat.lt_succ_of_le hr)
  · exact .trans ((setRegs_onlyChanges s x (by simp [State.blockAt])).mono fun _ => .inl)
      ((setIndex_onlyChanges _ _).mono fun _ => .inr)

/-! ## The fetch after a store -/

/-- Settles O37: neither store writes `PC`, so the fetch reads the word there from memory after the store. -/
theorem nextFetchSeesStore : Obligations.NextFetchSeesStore := by
  refine fun x s hpc => ⟨fun h => ?_, fun h => ?_⟩
  · obtain ⟨t, hexec, hread, hframe⟩ := exec_ldBVx_of_inside (x := x) h
    have hkept : t.pc = s.pc := hframe .pc (by simp [Component.isMemoryAt])
    exact ⟨t, hexec, hkept, fetch_eq_wordAfterStore hkept hpc hread⟩
  · obtain ⟨t, hexec, hread, -, hframe⟩ := exec_ldMemVx_of_inside h
    have hkept : t.pc = s.pc := hframe .pc (by simp [Component.isMemoryAt])
    exact ⟨t, hexec, hkept, fetch_eq_wordAfterStore hkept hpc hread⟩

end Sys2Proof.Machine
end

section
/-! Illegal words do not decode (R98). -/

namespace Sys2Proof

/-- The match values of the opcode map (R96). -/
def matchValues : List Nat :=
  [0x00E0, 0x00EE, 0x1000, 0x2000, 0x3000, 0x4000, 0x5000, 0x6000, 0x7000, 0x8000, 0x8001, 0x8002, 0x8003, 0x8004,
    0x8005, 0x8006, 0x8007, 0x800E, 0x9000, 0xA000, 0xB000, 0xC000, 0xD000, 0xE09E, 0xE0A1, 0xF007, 0xF00A, 0xF015,
    0xF018, 0xF01E, 0xF029, 0xF033, 0xF055, 0xF065]

/-- A masked word that is no match value is refused by name (R94). -/
theorem decode_eq_error_of_not_mem {w : Word} (h : (w &&& maskOf (opOf w)).toNat ∉ matchValues) :
    decode w = .error (.invalidOpcode w) := by
  unfold decode
  split
  case h_35 => rfl
  all_goals next hw => exact absurd (by rw [hw]; decide) h

/-- The masked word of each family that has illegal words, as a number (R95). -/
theorem masked_toNat (w : Word) :
    (w.toNat / 4096 = 0 → (w &&& maskOf (opOf w)).toNat = w.toNat) ∧
    (w.toNat / 4096 = 5 ∨ w.toNat / 4096 = 8 ∨ w.toNat / 4096 = 9 →
      (w &&& maskOf (opOf w)).toNat = 4096 * (w.toNat / 4096) + w.toNat % 16) ∧
    (w.toNat / 4096 = 14 ∨ w.toNat / 4096 = 15 →
      (w &&& maskOf (opOf w)).toNat = 4096 * (w.toNat / 4096) + w.toNat % 256) := by
  have := w.isLt
  have h := masked_cases w
  simp only [opOf_toNat, List.mem_cons, List.not_mem_nil, or_false] at h
  rcases h with ⟨hop, hm⟩ | ⟨hop, hm⟩ | ⟨hop, hm⟩ | ⟨hop, hm⟩
  · rw [hm]; omega
  · rw [hm, formatR_eq_ofNat, BitVec.toNat_ofNat, opOf_toNat, nOf_toNat]
    simp only [BitVec.ofNat_eq_ofNat, BitVec.toNat_ofNat]
    omega
  · rw [hm, formatR_eq_ofNat, BitVec.toNat_ofNat, opOf_toNat, yOf_toNat, nOf_toNat]
    simp only [BitVec.ofNat_eq_ofNat, BitVec.toNat_ofNat]
    omega
  · omega

/-- R98's six sets as numbers. -/
theorem legalWord_eq_false_iff (w : Word) : legalWord w = false ↔
    (w.toNat / 4096 = 0 ∧ w.toNat ≠ 0x00E0 ∧ w.toNat ≠ 0x00EE) ∨
    (w.toNat / 4096 = 5 ∧ w.toNat % 16 ≠ 0) ∨
    (w.toNat / 4096 = 8 ∧ w.toNat % 16 ∈ [8, 9, 10, 11, 12, 13, 15]) ∨
    (w.toNat / 4096 = 9 ∧ w.toNat % 16 ≠ 0) ∨
    (w.toNat / 4096 = 14 ∧ w.toNat % 256 ∉ [0x9E, 0xA1]) ∨
    (w.toNat / 4096 = 15 ∧ w.toNat % 256 ∉ [0x07, 0x0A, 0x15, 0x18, 0x1E, 0x29, 0x33, 0x55, 0x65]) := by
  simp only [legalWord, illegalIn0, illegalIn5, illegalIn8, illegalIn9, illegalInE, illegalInF, Bool.not_eq_false',
    Bool.or_eq_true, Bool.or_eq_false_iff, Bool.and_eq_true, Bool.not_eq_true', beq_iff_eq, beq_eq_false_iff_ne,
    bne_iff_ne, List.contains_eq_mem, decide_eq_true_eq, decide_eq_false_iff_not, or_assoc]

/-- An illegal word is no match value under its mask: in family 0 it is whole and neither `00E0` nor `00EE`, in 5, 8 and 9
its last nibble is none of the family's, in E and F its last byte (R95, R98). -/
theorem masked_not_mem_of_illegal {w : Word} (h : legalWord w = false) :
    (w &&& maskOf (opOf w)).toNat ∉ matchValues := by
  have := w.isLt
  obtain ⟨h0, h589, hEF⟩ := masked_toNat w
  rw [legalWord_eq_false_iff] at h
  simp only [List.mem_cons, List.not_mem_nil, or_false] at h
  simp only [matchValues, List.mem_cons, List.not_mem_nil, or_false]
  rcases h with ⟨hop, h⟩ | ⟨hop, h⟩ | ⟨hop, h⟩ | ⟨hop, h⟩ | ⟨hop, h⟩ | ⟨hop, h⟩
  · rw [h0 hop]; omega
  · rw [h589 (.inl hop), hop]; omega
  · rw [h589 (.inr (.inl hop)), hop]; omega
  · rw [h589 (.inr (.inr hop)), hop]; omega
  · rw [hEF (.inl hop), hop]; omega
  · rw [hEF (.inr hop), hop]; omega

/-- A word of one of R98's sets does not decode, and the error names it (R94, R98). -/
theorem decode_eq_error_of_illegal {w : Word} (h : legalWord w = false) : decode w = .error (.invalidOpcode w) :=
  decode_eq_error_of_not_mem (masked_not_mem_of_illegal h)

end Sys2Proof
end

section
/-! The fetch and what follows it: an instruction, or one of the two errors of a cycle before its handler runs (R221,
R222). -/

namespace Sys2Proof.Machine

/-- Settles O5: of the three cases of a step only the one that runs the instruction is left. -/
theorem stepRunsDecodedInstruction : Obligations.StepRunsDecodedInstruction := by
  intro s i hpc (hdecode : decode s.nextWord = .ok i)
  rcases step_cases s with ⟨hfetch, -⟩ | ⟨-, ⟨e, herror⟩, -⟩ | ⟨-, j, hj, hstep⟩
  · omega
  · rw [hdecode] at herror; cases herror
  · rw [hdecode] at hj; cases hj; exact hstep

/-- Settles O6: the error is entered before `PC` advances, and overwrites the ghost the cycle began by clearing. -/
theorem fetchOutsideMemoryIsAnError : Obligations.FetchOutsideMemoryIsAnError := by
  intro s hpc
  rcases step_cases s with ⟨-, hstep⟩ | ⟨hle, -⟩ | ⟨hle, -⟩
  · exact ⟨_, hstep, errorEntry_taken _ s⟩
  · omega
  · omega

/-- Settles O7: the word does not decode, and the error is entered with `PC` advanced. -/
theorem illegalWordIsAnError : Obligations.IllegalWordIsAnError := by
  intro s hpc hillegal
  rcases step_cases s with ⟨hfetch, -⟩ | ⟨-, -, hstep⟩ | ⟨-, i, hi, -⟩
  · omega
  · exact ⟨_, hstep, rfl, errorEntry_taken _ s.advance⟩
  · rw [decode_eq_error_of_illegal hillegal] at hi; cases hi

end Sys2Proof.Machine
end

section
/-! The decoder and the encoder are inverse to each other, and exactly R98's words do not decode (spec/30_encoding.md). -/

namespace Sys2Proof

open Laws.RowMatch (matchValue)

/-! A word is put together again from its `OP`, its operand fields and its fixed nibbles, format by format (R91, R92). -/

theorem formatA_of_opOf {w : Word} {op : BitVec 4} (hop : opOf w = op) : formatA op (nnnOf w) = w := by
  apply BitVec.eq_of_toNat_eq
  have := w.isLt
  rw [← hop, formatA_eq_ofNat, BitVec.toNat_ofNat, opOf_toNat, nnnOf_toNat]
  omega

theorem formatI_of_fields {w : Word} {op : BitVec 4} {nn : Byte} (hop : opOf w = op) (hnn : nnOf w = nn) :
    formatI op (xOf w) nn = w := by
  apply BitVec.eq_of_toNat_eq
  have := w.isLt
  rw [← hop, ← hnn, formatI_eq_ofNat, BitVec.toNat_ofNat, opOf_toNat, xOf_toNat, nnOf_toNat]
  omega

theorem formatR_of_fields {w : Word} {op n : BitVec 4} (hop : opOf w = op) (hn : nOf w = n) :
    formatR op (xOf w) (yOf w) n = w := by
  rw [← hop, ← hn, formatR_fields]

/-! The fields a mask of R95 keeps: `OP` always, the whole word in family 0, `N` in 5, 8 and 9, `NN` in E and F. -/

theorem opOf_masked (w : Word) : opOf (w &&& maskOf (opOf w)) = opOf w := by
  rcases masked_cases w with ⟨-, h⟩ | ⟨-, h⟩ | ⟨-, h⟩ | ⟨-, h⟩
  · rw [h]
  all_goals rw [h, opOf_formatR]

theorem masked_eq_self {w : Word} (hop : opOf w = 0) : w &&& maskOf (opOf w) = w := by
  rw [hop]
  exact BitVec.and_allOnes

theorem nOf_masked {w : Word} (hop : opOf w ∈ [5, 8, 9]) : nOf (w &&& maskOf (opOf w)) = nOf w := by
  have hmask : ∀ op ∈ [5, 8, 9], maskOf op = 0xF00F := by decide
  rw [hmask _ hop, ← formatR_fields w, maskF00F, nOf_formatR, nOf_formatR]

theorem nnOf_masked {w : Word} (hop : opOf w ∈ [14, 15]) : nnOf (w &&& maskOf (opOf w)) = nnOf w := by
  have hmask : ∀ op ∈ [14, 15], maskOf op = 0xF0FF := by decide
  have hw := formatI_of_fields (w := w) rfl rfl
  rw [hmask _ hop, ← hw, formatI_eq_formatR, maskF0FF, ← formatI_eq_formatR,
    ← formatI_eq_formatR, nnOf_formatI, nnOf_formatI]

/-! So words with one masked word agree in the fields their row fixes. -/

theorem opOf_eq_of_masked_eq {w v : Word} (h : w &&& maskOf (opOf w) = v &&& maskOf (opOf v)) : opOf w = opOf v := by
  rw [← opOf_masked w, h, opOf_masked]

theorem nOf_eq_of_masked_eq {w v : Word} (h : w &&& maskOf (opOf w) = v &&& maskOf (opOf v))
    (hop : opOf v ∈ [5, 8, 9]) : nOf w = nOf v := by
  rw [← nOf_masked (opOf_eq_of_masked_eq h ▸ hop), h, nOf_masked hop]

theorem nnOf_eq_of_masked_eq {w v : Word} (h : w &&& maskOf (opOf w) = v &&& maskOf (opOf v))
    (hop : opOf v ∈ [14, 15]) : nnOf w = nnOf v := by
  rw [← nnOf_masked (opOf_eq_of_masked_eq h ▸ hop), h, nnOf_masked hop]

/-! From the row a lookup finds to the word. -/

/-- The lookup finds the row of the instruction it answers. -/
theorem masked_eq_matchValue_of_decode {w : Word} {i : Instr} (h : decode w = .ok i) :
    w &&& maskOf (opOf w) = matchValue i := by
  unfold decode at h
  split at h
  all_goals cases h
  all_goals next hw => exact BitVec.eq_of_toNat_eq hw

/-- Nothing of the word is lost: the instruction's row fixes what its format does not hold as an operand (R96), and its
operands are the fields of the word. -/
theorem encode_of_decode {w : Word} {i : Instr} (h : decode w = .ok i) : encode i = w := by
  have hrow := masked_eq_matchValue_of_decode h
  have hmasked : w &&& maskOf (opOf w) = encode i &&& maskOf (opOf (encode i)) := hrow.trans (rowMatch i).symm
  have hop := opOf_eq_of_masked_eq hmasked
  have hn := nOf_eq_of_masked_eq hmasked
  have hnn := nnOf_eq_of_masked_eq hmasked
  unfold decode at h
  rw [hrow] at h
  cases i
  case cls | ret => rw [← masked_eq_self hop, hrow]; rfl
  all_goals
    cases h
    simp only [encode, opOf_formatA, opOf_formatI, opOf_formatR, nOf_formatR, nnOf_formatI] at hop hn hnn
  case jp | call | ldI | jpV0 => exact formatA_of_opOf hop
  case seImm | sneImm | ldImm | addImm | rnd => exact formatI_of_fields hop rfl
  case drw => exact formatR_of_fields hop rfl
  case seReg | ldReg | orReg | andReg | xorReg | addReg | subReg | shr | subnReg | shl | sneReg =>
    exact formatR_of_fields hop (hn (by decide))
  case skp | sknp | ldVxDt | ldVxK | ldDtVx | ldStVx | addIVx | ldFVx | ldBVx | ldMemVx | ldVxMem =>
    exact formatI_of_fields hop (hnn (by decide))

/-! R98's sets are complete: a word whose lookup finds no row is in one of them. -/

/-- A masked word that is a match value belongs to an instruction (R94, R96). -/
theorem decode_eq_ok_of_mem {w : Word} (h : (w &&& maskOf (opOf w)).toNat ∈ matchValues) : ∃ i, decode w = .ok i := by
  unfold decode
  split
  case h_35 => simp_all [matchValues]
  all_goals exact ⟨_, rfl⟩

/-- Outside the six families with illegal words the lookup sees `OP` alone (R95). -/
theorem masked_toNat_of_op_alone {w : Word} (hop : w.toNat / 4096 ∉ [0, 5, 8, 9, 14, 15]) :
    (w &&& maskOf (opOf w)).toNat = 4096 * (w.toNat / 4096) := by
  have hmask : ∀ op : BitVec 4, op.toNat ∉ [0, 5, 8, 9, 14, 15] → maskOf op = 0xF000 := by decide
  have := w.isLt
  rw [← opOf_toNat] at hop ⊢
  rw [hmask _ hop, ← formatR_fields w, maskF000, opOf_formatR, formatR_eq_ofNat, BitVec.toNat_ofNat, opOf_toNat]
  simp only [BitVec.ofNat_eq_ofNat, BitVec.toNat_ofNat]
  omega

/-- A legal word is a match value under its mask: in a family with illegal words because its last nibble or byte is one of
the family's, in every other one because the value is `OP` (R95, R98). -/
theorem masked_mem_of_legal {w : Word} (h : legalWord w = true) : (w &&& maskOf (opOf w)).toNat ∈ matchValues := by
  have := w.isLt
  have hlegal := (legalWord_eq_false_iff w).not.1 (by simp [h])
  simp only [not_or, not_and, not_not] at hlegal
  obtain ⟨l0, l5, l8, l9, lE, lF⟩ := hlegal
  obtain ⟨h0, h589, hEF⟩ := masked_toNat w
  have in8 : ∀ n < 16, n ∉ [8, 9, 10, 11, 12, 13, 15] → 4096 * 8 + n ∈ matchValues := by decide
  have inE : ∀ b ∈ [0x9E, 0xA1], 4096 * 14 + b ∈ matchValues := by decide
  have inF : ∀ b ∈ [0x07, 0x0A, 0x15, 0x18, 0x1E, 0x29, 0x33, 0x55, 0x65], 4096 * 15 + b ∈ matchValues := by decide
  have inRest : ∀ op < 16, op ∉ [0, 5, 8, 9, 14, 15] → 4096 * op ∈ matchValues := by decide
  by_cases hop : w.toNat / 4096 ∈ [0, 5, 8, 9, 14, 15]
  · simp only [List.mem_cons, List.not_mem_nil, or_false] at hop
    rcases hop with hop | hop | hop | hop | hop | hop
    · rw [h0 hop]
      by_cases hcls : w.toNat = 0x00E0
      · rw [hcls]; decide
      · rw [l0 hop hcls]; decide
    · rw [h589 (.inl hop), hop, l5 hop]; decide
    · rw [h589 (.inr (.inl hop)), hop]; exact in8 _ (Nat.mod_lt _ (by decide)) (l8 hop)
    · rw [h589 (.inr (.inr hop)), hop, l9 hop]; decide
    · rw [hEF (.inl hop), hop]; exact inE _ (lE hop)
    · rw [hEF (.inr hop), hop]; exact inF _ (lF hop)
  · rw [masked_toNat_of_op_alone hop]; exact inRest _ (by omega) hop

/-- A word that is in none of R98's sets is an instruction. -/
theorem decode_eq_ok_of_legal {w : Word} (h : legalWord w = true) : ∃ i, decode w = .ok i :=
  decode_eq_ok_of_mem (masked_mem_of_legal h)

/-! Bytes. -/

/-- The decoder of bytes reads a word's two bytes and leaves the others (R62, R90). -/
theorem decodeBytes_bytesOfWord {w : Word} {i : Instr} (h : decode w = .ok i) (rest : List Byte) :
    decodeBytes (bytesOfWord w ++ rest) = .ok (i, rest) := by
  simp only [bytesOfWord, List.cons_append, List.nil_append, decodeBytes, wordOfBytes_bytesOfWord, h]

/-- Settles O1: every field of a format is read back from where the format puts it. -/
theorem decodeOfEncodeGivesInstructionBack : Obligations.DecodeOfEncodeGivesInstructionBack :=
  fun i _ => ⟨decode_encode i, decodeBytes_bytesOfWord (decode_encode i)⟩

/-- Settles O2. -/
theorem encodeOfDecodeGivesWordBack : Obligations.EncodeOfDecodeGivesWordBack := fun _ _ h => encode_of_decode h

/-- Settles O3: the masked word of a legal word is a match value, that of an illegal word is none. -/
theorem illegalWordsAreExactlyTheListedOnes : Obligations.IllegalWordsAreExactlyTheListedOnes := by
  intro w
  split
  · next hlegal => exact decode_eq_ok_of_legal hlegal
  · next hillegal => exact decode_eq_error_of_illegal (Bool.eq_false_of_not_eq_true hillegal)

/-- Settles O4: the legal words are encodings, the other two are in R98's sets. -/
theorem wordsWrittenOutDecode : Obligations.WordsWrittenOutDecode :=
  ⟨decode_encode .cls, decode_encode .ret, decode_encode (.jp 0x206), decode_encode (.seImm 5 0x71),
    decode_encode (.addReg 3 7), decode_encode (.shr 4 7), decode_encode (.ldI 0x2F0), decode_encode (.drw 0 1 15),
    decode_encode (.sknp 2), decode_encode (.ldBVx 2), decode_eq_error_of_illegal (by decide),
    decode_eq_error_of_illegal (by decide)⟩

end Sys2Proof
end

section
/-! The two jumps, `1nnn` and `Bnnn`: one write of `PC` (R122, R124). -/

namespace Sys2Proof.Machine

/-- The target of `Bnnn` as a number: a 12-bit address and a byte do not reach 65536, so the sum does not wrap (R124). -/
theorem offsetTarget_toNat (s : State) (nnn : Addr12) : (s.offsetTarget nnn).toNat = nnn.toNat + (s.reg 0).toNat := by
  have := nnn.isLt
  have := (s.reg 0).isLt
  rw [State.offsetTarget, BitVec.toNat_add, BitVec.toNat_setWidth_of_le (by decide), BitVec.toNat_setWidth_of_le (by decide)]
  exact Nat.mod_eq_of_lt (by omega)

/-- Settles O16. NNN has 12 bits, so `PC` gets it unreduced. -/
theorem jumpGoesToAddress : Obligations.JumpGoesToAddress := fun nnn s =>
  ⟨decode_of_formatA 0x1 nnn rfl rfl, s.setPc (nnn.setWidth 16), rfl, BitVec.toNat_setWidth_of_le (by decide),
    setPc_onlyChanges s _⟩

/-- Settles O18: `PC` gets the target, which may lie past 4095. -/
theorem jumpWithOffsetAddsRegisterZero : Obligations.JumpWithOffsetAddsRegisterZero := fun nnn s =>
  ⟨decode_of_formatA 0xB nnn rfl rfl, s.setPc (s.offsetTarget nnn), rfl, offsetTarget_toNat s nnn,
    setPc_onlyChanges s _⟩

end Sys2Proof.Machine
end

section
/-! The random source: no instruction but `Cxnn` reads or writes it, hence no step but one of `Cxnn` (R152, R220). -/

namespace Sys2Proof.Machine

/-- The machine with another random source (log 3). -/
def State.withRandom (s : State) (input : List Byte) (draws : Nat) : State :=
  { s with randomInput := input, randomDraws := draws }

/-- From `s` the meaning `f` reads nothing of the random source: with any other source it does the same to everything
else and leaves that source as it is. -/
def IgnoresRandom (f : State → Result) (s : State) : Prop :=
  ∃ t, f s = .next t ∧ ∀ input draws, f (s.withRandom input draws) = .next (t.withRandom input draws)

/-! ## The operations with two outcomes -/

/-- A checked operation and the rest of its meaning. `g` is what another random source does to the operation's result:
nothing to bytes that were read, and the same to a state as to the machine. -/
theorem orRaise_ignoresRandom {α : Type} {e : ErrorKind} {s : State} {o : State → Option α} {k : State → α → Result}
    (g : List Byte → Nat → α → α)
    (ho : ∀ input draws, o (s.withRandom input draws) = (o s).map (g input draws))
    (hk : ∀ a, ∃ t, k s a = .next t ∧
      ∀ input draws, k (s.withRandom input draws) (g input draws a) = .next (t.withRandom input draws)) :
    IgnoresRandom (fun u => orRaise e u (o u) (k u)) s := by
  unfold IgnoresRandom
  simp only [ho]
  cases o s with
  | none => exact ⟨_, rfl, fun _ _ => rfl⟩
  | some a => exact hk a

theorem skipIf_withRandom (s : State) (c : Bool) (input : List Byte) (draws : Nat) :
    (s.withRandom input draws).skipIf c = (s.skipIf c).withRandom input draws := by
  cases c <;> rfl

theorem pop_withRandom (s : State) (input : List Byte) (draws : Nat) :
    (s.withRandom input draws).pop = s.pop.map fun p => (p.1, p.2.withRandom input draws) := by
  have hstack : (s.withRandom input draws).stack = s.stack := rfl
  simp only [State.pop, hstack]
  cases s.stack <;> rfl

theorem push_withRandom (s : State) (a : Word) (input : List Byte) (draws : Nat) :
    (s.withRandom input draws).push a = (s.push a).map (·.withRandom input draws) := by
  rw [State.push.eq_def s, apply_ite (Option.map _)]
  rfl

theorem storeBlock_withRandom (s : State) (a : Nat) (bs : List Byte) (input : List Byte) (draws : Nat) :
    (s.withRandom input draws).storeBlock a bs = (s.storeBlock a bs).map (·.withRandom input draws) := by
  rw [State.storeBlock.eq_def s, apply_ite (Option.map _)]
  rfl

theorem loadBlock_withRandom (s : State) (a n : Nat) (input : List Byte) (draws : Nat) :
    (s.withRandom input draws).loadBlock a n = (s.loadBlock a n).map id :=
  Option.map_id_apply.symm

theorem execLdVxK_ignoresRandom (x : RegIdx) (s : State) : IgnoresRandom (execLdVxK x) s := by
  have hkey (input : List Byte) (draws : Nat) : (s.withRandom input draws).lowestKey = s.lowestKey := rfl
  unfold IgnoresRandom execLdVxK
  simp only [hkey]
  cases s.lowestKey with
  | none => exact ⟨_, rfl, fun _ _ => rfl⟩
  | some k => exact ⟨_, rfl, fun _ _ => rfl⟩

/-! ## Every instruction but `Cxnn`, and the step -/

/-- Whether an instruction skips, fails or finds a key is decided without the random source, and its writes are to other
parts of the state (R152). -/
theorem exec_ignoresRandom {i : Instr} (hi : ∀ x nn, i ≠ .rnd x nn) (s : State) : IgnoresRandom (exec i) s := by
  cases i with
  | rnd x nn => exact absurd rfl (hi x nn)
  | seImm | sneImm | seReg | sneReg | skp | sknp =>
    exact ⟨_, rfl, fun _ _ => congrArg _ (skipIf_withRandom s _ _ _)⟩
  | ret =>
    exact orRaise_ignoresRandom (fun input draws p => (p.1, p.2.withRandom input draws)) (pop_withRandom s)
      fun _ => ⟨_, rfl, fun _ _ => rfl⟩
  | call nnn =>
    exact orRaise_ignoresRandom (fun input draws t => t.withRandom input draws) (push_withRandom s _)
      fun _ => ⟨_, rfl, fun _ _ => rfl⟩
  | ldBVx x =>
    exact orRaise_ignoresRandom (fun input draws t => t.withRandom input draws)
      (storeBlock_withRandom s s.dataAddr (bcdDigits (s.reg x))) fun _ => ⟨_, rfl, fun _ _ => rfl⟩
  | ldMemVx x =>
    exact orRaise_ignoresRandom (fun input draws t => t.withRandom input draws)
      (storeBlock_withRandom s s.dataAddr (s.regsUpTo x)) fun _ => ⟨_, rfl, fun _ _ => rfl⟩
  | drw | ldVxMem =>
    exact orRaise_ignoresRandom (fun _ _ => id) (loadBlock_withRandom s s.dataAddr _) fun _ => ⟨_, rfl, fun _ _ => rfl⟩
  | ldVxK x => exact execLdVxK_ignoresRandom x s
  | _ => exact ⟨_, rfl, fun _ _ => rfl⟩

theorem step_of_fetch_outside {s : State} (h : 4095 ≤ s.pc.toNat) :
    step s = .next (errorEntry .memoryOutOfRange s.beginCycle) := by
  rcases step_cases s with ⟨-, hstep⟩ | ⟨hle, -⟩ | ⟨hle, -⟩
  · exact hstep
  · omega
  · omega

theorem step_of_decode_error {s : State} {e : DecodeError} (hpc : s.pc.toNat ≤ 4094)
    (hdecode : decode s.nextWord = .error e) : step s = .next (errorEntry .invalidOpcode s.beginCycle.advance) := by
  rcases step_cases s with ⟨hge, -⟩ | ⟨-, -, hstep⟩ | ⟨-, i, hi, -⟩
  · omega
  · exact hstep
  · rw [hdecode] at hi; cases hi

/-- The fetch and the decoder read no random source either (R220). -/
theorem step_ignoresRandom {s : State} (hs : ∀ x nn, decode s.nextWord ≠ .ok (.rnd x nn)) : IgnoresRandom step s := by
  rcases step_cases s with ⟨hpc, hstep⟩ | ⟨hpc, ⟨e, he⟩, hstep⟩ | ⟨hpc, i, hi, hstep⟩
  · exact ⟨_, hstep, fun _ _ => step_of_fetch_outside (s := s.withRandom _ _) hpc⟩
  · exact ⟨_, hstep, fun _ _ => step_of_decode_error (s := s.withRandom _ _) hpc he⟩
  · have hne (x : RegIdx) (nn : Byte) : i ≠ .rnd x nn := fun h => hs x nn (h ▸ hi)
    obtain ⟨t, ht, hrandom⟩ := exec_ignoresRandom hne s.beginCycle.advance
    exact ⟨t, hstep.trans ht, fun input draws =>
      (stepRunsDecodedInstruction (s.withRandom input draws) i hpc hi).trans (hrandom input draws)⟩

/-- Settles O14. That no byte is consumed is the case of the source that `s` already has. -/
theorem onlyRndUsesTheRandomSource : Obligations.OnlyRndUsesTheRandomSource := by
  intro s input draws hs
  obtain ⟨t, ht, hrandom⟩ := step_ignoresRandom hs
  have hown : t = t.withRandom s.randomInput s.randomDraws :=
    Host.Outcome.next.inj (ht.symm.trans (hrandom s.randomInput s.randomDraws))
  exact ⟨t, ht, by rw [hown]; rfl, by rw [hown]; rfl, hrandom input draws⟩

end Sys2Proof.Machine
end

section
/-! The instructions that write `V[x]` and no flag: loads, `7xnn`, logic and `Cxnn` (R141 to R146, R153). -/

namespace Sys2Proof.Machine

/-- Settles O21. -/
theorem loadImmediateSetsRegister : Obligations.LoadImmediateSetsRegister := fun x nn s =>
  ⟨decode_of_formatI 0x6 x nn rfl rfl, _, rfl, State.reg_setReg_self s x nn, setReg_onlyChanges s x nn⟩

/-- Settles O22: a sum of bytes is reduced modulo 256. -/
theorem addImmediateWrapsWithoutFlag : Obligations.AddImmediateWrapsWithoutFlag := by
  refine fun x nn s => ⟨decode_of_formatI 0x7 x nn rfl rfl, _, rfl, ?_, setReg_onlyChanges s x _⟩
  rw [State.reg_setReg_self, BitVec.toNat_add]

/-- Settles O23. -/
theorem copyRegister : Obligations.CopyRegister := fun x y s =>
  ⟨decode_of_formatR 0x8 x y 0 rfl rfl, _, rfl, State.reg_setReg_self s x _, setReg_onlyChanges s x _⟩

/-- Settles O24: the bits of the one byte written. -/
theorem logicWorksBitByBitWithoutFlag : Obligations.LogicWorksBitByBitWithoutFlag := by
  refine fun x y s => ⟨decode_of_formatR 0x8 x y 1 rfl rfl, decode_of_formatR 0x8 x y 2 rfl rfl,
    decode_of_formatR 0x8 x y 3 rfl rfl, ⟨_, rfl, setReg_onlyChanges s x _, fun b => ?_⟩,
    ⟨_, rfl, setReg_onlyChanges s x _, fun b => ?_⟩, ⟨_, rfl, setReg_onlyChanges s x _, fun b => ?_⟩⟩
  · rw [State.reg_setReg_self, BitVec.getLsbD_or]
  · rw [State.reg_setReg_self, BitVec.getLsbD_and]
  · rw [State.reg_setReg_self, BitVec.getLsbD_xor]

/-- The first injected byte is the next random one (R152; log 3). -/
theorem nextRandom_of_cons {s : State} {b : Byte} {rest : List Byte} (h : s.randomInput = b :: rest) :
    s.nextRandom = b := by
  rw [State.nextRandom, h]

/-- Settles O29: the byte is drawn and consumed before the mask is applied, whatever the mask. -/
theorem randomByteIsMaskedAndConsumed : Obligations.RandomByteIsMaskedAndConsumed := by
  intro x nn s
  have hreg : (s.consumeRandom.setReg x (s.nextRandom &&& nn)).reg x = s.nextRandom &&& nn := State.reg_setReg_self _ _ _
  refine ⟨decode_of_formatI 0xC x nn rfl rfl, _, rfl, hreg, fun b rest h => ⟨?_, ?_⟩, fun k hk => ?_, rfl,
    .trans ((consumeRandom_onlyChanges s).mono fun _ => .inr) ((setReg_onlyChanges _ x _).mono fun _ => .inl)⟩
  · rw [hreg, nextRandom_of_cons h]
  · rw [State.setReg_randomInput, State.consumeRandom_randomInput, h, List.tail_cons]
  · rw [hreg, BitVec.getLsbD_and, hk, Bool.and_false]

end Sys2Proof.Machine
end

section
/-! The index register and memory: `Annn`, `Fx29`, and `Fx65` after `Fx55` (R161, R163, R167). -/

namespace Sys2Proof.Machine

/-- Main memory is the cells over the background the font gives, so it reads the same in states that share both
(R60, R61). -/
theorem readByte_congr {s t : State} (hmem : s.mem = t.mem) (hparams : s.params = t.params) (a : Nat) :
    s.readByte a = t.readByte a := by
  rw [State.readByte, State.readByte, hmem, hparams]

/-- Settles O36: the load finds each byte where the store put it, `I` and memory being those of the store. -/
theorem loadRestoresStoredRegisters : Obligations.LoadRestoresStoredRegisters := by
  intro x s t s' hinside hstore hmem hparams hindex
  have haddr : s'.dataAddr = s.dataAddr := congrArg BitVec.toNat hindex
  obtain ⟨-, hstored, -⟩ := registersAreStored x s
  obtain ⟨t', hexec, hread, -⟩ := hstored hinside
  obtain rfl : t = t' := Host.Outcome.next.inj (hstore.symm.trans hexec)
  obtain ⟨-, hloaded, -⟩ := registersAreLoaded x s'
  obtain ⟨u, hload, hregs, -⟩ := hloaded (haddr ▸ hinside)
  refine ⟨u, hload, fun r hr => ?_⟩
  calc u.reg r
    _ = s'.readByte (s'.dataAddr + r.toNat) := hregs r hr
    _ = t.readByte (s.dataAddr + r.toNat) := by rw [haddr, readByte_congr hmem hparams]
    _ = s.reg r := hread r hr

/-- Settles O30. NNN has 12 bits, so `I` gets it unreduced. -/
theorem loadIndexSetsIndex : Obligations.LoadIndexSetsIndex := fun nnn s =>
  ⟨decode_of_formatA 0xA nnn rfl rfl, s.setIndex (nnn.setWidth 16), rfl, BitVec.toNat_setWidth_of_le (by decide),
    setIndex_onlyChanges s _⟩

/-- A digit is at most 15, so its sprite's address does not wrap (R31, R163). -/
theorem fontAddr_toNat (digit : BitVec 4) : (fontAddr digit).toNat = 5 * digit.toNat := by
  have := digit.isLt
  rw [fontAddr, BitVec.toNat_mul, BitVec.toNat_setWidth_of_le (by decide)]
  exact Nat.mod_eq_of_lt (show 5 * digit.toNat < 65536 by omega)

/-- Settles O32: the digit is the low nibble of `V[x]`, and the one write is to `I`. -/
theorem fontAddressIsFiveTimesDigit : Obligations.FontAddressIsFiveTimesDigit := by
  refine fun x s => ⟨decode_of_formatS 0xF x 0x29 rfl rfl, _, rfl, ?_, setIndex_onlyChanges s _⟩
  rw [State.setIndex_i, fontAddr_toNat, lowNibble_toNat]

end Sys2Proof.Machine
end

section
/-! Drawing one sprite twice at one place (spec/43_display.md, R184). -/

namespace Sys2Proof.Machine

/-- A display is given by its pixels (R33). -/
theorem display_eq_of_pixel_eq {d e : Display} (h : ∀ px py, px < 64 → py < 32 → pixel d px py = pixel e px py) :
    d = e := by
  refine Vector.ext fun k hk => BitVec.eq_of_getLsbD_eq fun j hj => ?_
  obtain ⟨px, py, hx, hy, hbyte, hbit⟩ := exists_pixel_of_bit ⟨k, hk⟩ hj
  have hpixel := h px py hx hy
  simp only [pixel, hbyte, hbit] at hpixel
  exact hpixel

/-- A draw writes neither `I` nor memory (R182). -/
theorem exec_drw_keeps_sprite {x y : RegIdx} {n : BitVec 4} {s t : State} (h : s.dataAddr + n.toNat < 4096)
    (ht : exec (.drw x y n) s = .next t) : t.dataAddr = s.dataAddr ∧ ∀ a, t.readByte a = s.readByte a := by
  obtain ⟨-, hinside, -⟩ := drawTouchesOnlyItsRows x y n s
  obtain ⟨t', hexec, -, -, hframe⟩ := hinside h
  obtain rfl : t = t' := Host.Outcome.next.inj (ht.symm.trans hexec)
  exact ⟨congrArg BitVec.toNat (hframe .index (by simp)), fun a => hframe (.memory a) (by simp)⟩

/-- The pixels under a sprite depend on the origin and on the sprite's bytes only (R183). -/
theorem spriteSets_congr {x y : RegIdx} {n : BitVec 4} {s t : State} (hx : t.originX x = s.originX x)
    (hy : t.originY y = s.originY y) (haddr : t.dataAddr = s.dataAddr) (hmem : ∀ a, t.readByte a = s.readByte a) :
    spriteSets t x y n = spriteSets s x y n := by
  funext px py
  simp only [spriteSets, hx, hy, haddr, hmem]

/-- Settles O41: both draws complement the same pixels, so each of them is complemented twice, and a pixel lit after the
first draw is one that was dark before it. -/
theorem drawingTwiceRestoresDisplay : Obligations.DrawingTwiceRestoresDisplay := by
  intro x y n s t hinside ht hx hy
  obtain ⟨haddr, hmem⟩ := exec_drw_keeps_sprite hinside ht
  obtain ⟨t', hexec, hfirst, -, -⟩ := drawComplementsPixelsUnderSprite x y n s hinside
  obtain rfl : t = t' := Host.Outcome.next.inj (ht.symm.trans hexec)
  obtain ⟨u, hu, hsecond, hflag, -⟩ := drawComplementsPixelsUnderSprite x y n t (haddr ▸ hinside)
  rw [spriteSets_congr hx hy haddr hmem] at hsecond hflag
  refine ⟨u, hu, display_eq_of_pixel_eq fun px py hpx hpy => ?_, hflag.trans ?_⟩
  · obtain ⟨hflips, hkeeps⟩ := hfirst px py hpx hpy
    obtain ⟨hflips', hkeeps'⟩ := hsecond px py hpx hpy
    by_cases hset : spriteSets s x y n px py
    · rw [hflips' hset, hflips hset, Bool.not_not]
    · rw [hkeeps' hset, hkeeps hset]
  · refine exists₂_congr fun px py => and_congr_right fun hpx => and_congr_right fun hpy => and_congr_right fun hset => ?_
    rw [(hfirst px py hpx hpy).1 hset, Bool.not_eq_true']

end Sys2Proof.Machine
end

section
/-! Keypad and timers: `Fx0A`, `Fx07`, `Fx15` and `Fx18` (R202 to R205). -/

namespace Sys2Proof.Machine

/-- `Fx0A` when the scan finds a key (R202). -/
theorem exec_ldVxK_of_some {s : State} {k : BitVec 4} (x : RegIdx) (h : s.lowestKey = some k) :
    exec (.ldVxK x) s = .next ((s.setReg x (k.setWidth 8)).setKey k false) := by
  change execLdVxK x s = _
  rw [execLdVxK, h]

/-- `Fx0A` when the scan finds none (R202). -/
theorem exec_ldVxK_of_none {s : State} (x : RegIdx) (h : s.lowestKey = none) :
    exec (.ldVxK x) s = .next s.rewind := by
  change execLdVxK x s = _
  rw [execLdVxK, h]

/-- Settles O43, by what the scan of the latches finds. A key number has 4 bits, so `V[x]` gets it unreduced. -/
theorem waitForKeyTakesLowestKey : Obligations.WaitForKeyTakesLowestKey := by
  refine fun x s => ⟨decode_of_formatS 0xF x 0x0A rfl rfl, fun k hk hleast => ?_, fun hnone => ?_⟩
  · refine ⟨_, exec_ldVxK_of_some x (lowestKey_eq_some.mpr ⟨hk, hleast⟩), ?_, ?_,
      .trans ((setReg_onlyChanges s x _).mono fun _ => .inl) ((setKey_onlyChanges _ k false).mono fun _ => .inr)⟩
    · rw [State.setKey_reg, State.reg_setReg_self, BitVec.toNat_setWidth_of_le (by decide)]
    · rw [State.key_setKey, if_pos rfl]
  · refine ⟨_, exec_ldVxK_of_none x (lowestKey_eq_none.mpr hnone), ?_, setPc_onlyChanges s _⟩
    rw [State.rewind_eq, State.setPc_pc, BitVec.toNat_sub, Nat.add_comm]
    rfl

/-- Settles O44: each instruction is one write, and the sound view is that of the byte written. -/
theorem timersAreReadAndSet : Obligations.TimersAreReadAndSet := fun x s =>
  ⟨decode_of_formatS 0xF x 0x07 rfl rfl, decode_of_formatS 0xF x 0x15 rfl rfl, decode_of_formatS 0xF x 0x18 rfl rfl,
    ⟨_, rfl, State.reg_setReg_self s x s.dt, setReg_onlyChanges s x s.dt⟩,
    ⟨_, rfl, State.setDelay_dt s (s.reg x), setDelay_onlyChanges s (s.reg x)⟩,
    ⟨_, rfl, State.setSound_st s (s.reg x), setSound_onlyChanges s (s.reg x), byte_ne_zero_iff (s.reg x)⟩⟩

end Sys2Proof.Machine
end

section
/-! What a host can set beside the program: a step answers a next state whatever the lifecycle state, the speed and the
retained image are, and reads none of them (R220, R225, R292). -/

namespace Sys2Proof.Machine

/-- The machine `s` with the lifecycle state, speed and retained image of `h`. -/
def State.withHost (s h : State) : State :=
  { s with
    lifecycle := h.lifecycle
    cyclesPerFrame := h.cyclesPerFrame
    rom := h.rom
    programLoaded := h.programLoaded }

/-- From `s` the meaning `f` answers a next state and reads nothing of the host's part: with any other such part the
answer differs in that part only. -/
def IgnoresHost (f : State → Result) (s : State) : Prop :=
  ∃ t, f s = .next t ∧ ∀ h, ∃ h', f (s.withHost h) = .next (t.withHost h')

/-! ## The operations with two outcomes -/

/-- A checked operation and the rest of its meaning. `g` is what another host's part does to the operation's result:
nothing to bytes that were read, and the same to a state as to the machine. -/
theorem orRaise_ignoresHost {α : Type} {e : ErrorKind} {s : State} {o : State → Option α} {k : State → α → Result}
    (g : State → α → α) (ho : ∀ h, o (s.withHost h) = (o s).map (g h))
    (hk : ∀ a, ∃ t, k s a = .next t ∧ ∀ h, k (s.withHost h) (g h a) = .next (t.withHost h)) :
    IgnoresHost (fun u => orRaise e u (o u) (k u)) s := by
  unfold IgnoresHost
  simp only [ho]
  cases o s with
  | none => exact ⟨_, rfl, fun h => ⟨h.setLifecycle .empty, rfl⟩⟩
  | some a =>
    obtain ⟨t, ht, hhost⟩ := hk a
    exact ⟨t, ht, fun h => ⟨h, hhost h⟩⟩

theorem skipIf_withHost (s h : State) (c : Bool) : (s.withHost h).skipIf c = (s.skipIf c).withHost h := by
  cases c <;> rfl

theorem pop_withHost (s h : State) : (s.withHost h).pop = s.pop.map fun p => (p.1, p.2.withHost h) := by
  have hstack : (s.withHost h).stack = s.stack := rfl
  simp only [State.pop, hstack]
  cases s.stack <;> rfl

theorem push_withHost (s : State) (a : Word) (h : State) : (s.withHost h).push a = (s.push a).map (·.withHost h) := by
  rw [State.push.eq_def s, apply_ite (Option.map _)]
  rfl

theorem storeBlock_withHost (s : State) (a : Nat) (bs : List Byte) (h : State) :
    (s.withHost h).storeBlock a bs = (s.storeBlock a bs).map (·.withHost h) := by
  rw [State.storeBlock.eq_def s, apply_ite (Option.map _)]
  rfl

theorem loadBlock_withHost (s : State) (a n : Nat) (h : State) :
    (s.withHost h).loadBlock a n = (s.loadBlock a n).map id :=
  Option.map_id_apply.symm

theorem setRegs_withHost (s : State) (bs : List Byte) (h : State) :
    (s.withHost h).setRegs bs = (s.setRegs bs).withHost h := rfl

theorem advanceIndex_withHost (s : State) (x : RegIdx) (h : State) :
    (s.withHost h).advanceIndex x = (s.advanceIndex x).withHost h := rfl

theorem execLdVxK_ignoresHost (x : RegIdx) (s : State) : IgnoresHost (execLdVxK x) s := by
  have hkey (h : State) : (s.withHost h).lowestKey = s.lowestKey := rfl
  unfold IgnoresHost execLdVxK
  simp only [hkey]
  cases s.lowestKey with
  | none => exact ⟨_, rfl, fun h => ⟨h, rfl⟩⟩
  | some k => exact ⟨_, rfl, fun h => ⟨h, rfl⟩⟩

/-! ## Every instruction, and the step -/

/-- Whether an instruction skips, fails or finds a key is decided without the host's part (R220). -/
theorem exec_ignoresHost (i : Instr) (s : State) : IgnoresHost (exec i) s := by
  cases i with
  | seImm | sneImm | seReg | sneReg | skp | sknp =>
    exact ⟨_, rfl, fun h => ⟨h, congrArg _ (skipIf_withHost s h _)⟩⟩
  | ret =>
    exact orRaise_ignoresHost (fun h p => (p.1, p.2.withHost h)) (pop_withHost s) fun _ => ⟨_, rfl, fun _ => rfl⟩
  | call nnn =>
    exact orRaise_ignoresHost (fun h t => t.withHost h) (push_withHost s s.pc) fun _ => ⟨_, rfl, fun _ => rfl⟩
  | ldBVx x =>
    exact orRaise_ignoresHost (fun h t => t.withHost h) (storeBlock_withHost s s.dataAddr (bcdDigits (s.reg x)))
      fun _ => ⟨_, rfl, fun _ => rfl⟩
  | ldMemVx x =>
    exact orRaise_ignoresHost (fun h t => t.withHost h) (storeBlock_withHost s s.dataAddr (s.regsUpTo x))
      fun _ => ⟨_, rfl, fun _ => rfl⟩
  | drw x y n =>
    exact orRaise_ignoresHost (fun _ => id) (loadBlock_withHost s s.dataAddr _) fun _ => ⟨_, rfl, fun _ => rfl⟩
  | ldVxMem x =>
    exact orRaise_ignoresHost (fun _ => id) (loadBlock_withHost s s.dataAddr _)
      fun _ => ⟨_, rfl, fun _ => by rw [id_eq, setRegs_withHost, advanceIndex_withHost]⟩
  | ldVxK x => exact execLdVxK_ignoresHost x s
  | _ => exact ⟨_, rfl, fun h => ⟨h, rfl⟩⟩

/-- The fetch and the decoder read no host's part either (R220). -/
theorem step_ignoresHost (s : State) : IgnoresHost step s := by
  rcases step_cases s with ⟨hpc, hstep⟩ | ⟨hpc, ⟨e, he⟩, hstep⟩ | ⟨hpc, i, hi, hstep⟩
  · exact ⟨_, hstep, fun h => ⟨h.setLifecycle .empty, step_of_fetch_outside (s := s.withHost h) hpc⟩⟩
  · exact ⟨_, hstep, fun h => ⟨h.setLifecycle .empty, step_of_decode_error (s := s.withHost h) hpc he⟩⟩
  · obtain ⟨t, ht, hhost⟩ := exec_ignoresHost i s.beginCycle.advance
    refine ⟨t, hstep.trans ht, fun h => ?_⟩
    obtain ⟨h', hh'⟩ := hhost h
    exact ⟨h', (stepRunsDecodedInstruction (s.withHost h) i hpc hi).trans hh'⟩

/-- A step keeps the lifecycle state unless it ends with an error, which makes it Empty (R220, R286). -/
theorem step_lifecycle {s t : State} (h : step s = .next t) :
    t.lifecycle = if t.lastError = none then s.lifecycle else .empty := by
  rcases step_cases s with ⟨-, hstep⟩ | ⟨-, -, hstep⟩ | ⟨-, i, -, hstep⟩ <;> rw [hstep] at h
  · cases h; rfl
  · cases h; rfl
  · rcases exec_cases h with ⟨e, rfl⟩ | ⟨hframe, -⟩
    · rfl
    · have herror : t.lastError = none := hframe .lastError (not_mayWrite (.inr (.inr rfl)))
      rw [if_pos herror]
      exact hframe .lifecycle (not_mayWrite (.inr (.inl rfl)))

/-- Settles O13. The host's part of the second answer is what a step keeps of the one it started with. -/
theorem stepIgnoresLifecycleAndImage : Obligations.StepIgnoresLifecycleAndImage := by
  intro s l n image loaded
  obtain ⟨t, ht, hhost⟩ := step_ignoresHost s
  obtain ⟨h', hstep⟩ :=
    hhost { s with lifecycle := l, cyclesPerFrame := n, rom := image, programLoaded := loaded }
  have hlifecycle : h'.lifecycle = if t.lastError = none then l else .empty := step_lifecycle hstep
  have hspeed : h'.cyclesPerFrame = n :=
    step_same_of_isHostSetting (c := .cyclesPerFrame) (.inr (.inl rfl)) hstep
  obtain ⟨hrom, hloaded⟩ : h'.rom = image ∧ h'.programLoaded = loaded :=
    step_same_of_isHostSetting (c := .program) (.inr (.inr (.inl rfl))) hstep
  refine ⟨t, ht, hstep.trans ?_⟩
  rw [State.withHost, hlifecycle, hspeed, hrom, hloaded]

end Sys2Proof.Machine
end

section
/-! The tick: it does nothing unless Running, and else is a batch of steps after one decrement of the timers (R226 to
R228); with it what steps and ticks cannot do (R253, R254, R292, R300). -/

namespace Sys2Proof.Machine

/-! ## Steps one after another -/

/-- The state a step ends in; the other answers never come (`step_eq_stepped`). -/
def State.stepped (s : State) : State :=
  match step s with
  | .next t => t
  | .fault _ => s
  | .refused _ => s

/-- A step always returns (R292). -/
theorem step_eq_stepped (s : State) : step s = .next s.stepped := by
  obtain ⟨t, ht, -⟩ := step_ignoresHost s
  rw [State.stepped, ht]

/-- A batch takes one step and goes on unless that one failed (R226, R228). -/
theorem runBatch_succ (n : Nat) (s : State) :
    runBatch (n + 1) s = if s.stepped.lastError = none then runBatch n s.stepped else .next s.stepped := by
  have hcycle : cycle s = .next s.stepped := step_eq_stepped s
  rw [runBatch, hcycle]
  cases h : s.stepped.lastError <;> simp [h]

/-- A batch of `n` cycles from `s` ends after `k` of them: no cycle before the last fails, and only a failure ends the
batch early (R226, R228). -/
structure BatchEndsAfter (n k : Nat) (s : State) : Prop where
  answer : runBatch n s = .next (State.stepped^[k] s)
  le : k ≤ n
  noError : ∀ j, 0 < j → j < k → (State.stepped^[j] s).lastError = none
  early : k < n → 0 < k ∧ (State.stepped^[k] s).lastError ≠ none

/-- One step that does not fail, before a batch (R226). -/
theorem BatchEndsAfter.succ {n k : Nat} {s : State} (he : s.stepped.lastError = none)
    (h : BatchEndsAfter n k s.stepped) : BatchEndsAfter (n + 1) (k + 1) s where
  answer := by rw [runBatch_succ, if_pos he]; exact h.answer
  le := Nat.succ_le_succ h.le
  noError
    | 1, _, _ => he
    | j + 2, _, hj => h.noError (j + 1) j.succ_pos (Nat.lt_of_succ_lt_succ hj)
  early hk := ⟨k.succ_pos, (h.early (Nat.lt_of_succ_lt_succ hk)).2⟩

/-- Every batch ends, by induction on its length. -/
theorem exists_batchEndsAfter (n : Nat) (s : State) : ∃ k, BatchEndsAfter n k s := by
  induction n generalizing s with
  | zero => exact ⟨0, rfl, le_rfl, fun j _ hj => absurd hj j.not_lt_zero, fun h => absurd h (Nat.lt_irrefl 0)⟩
  | succ n ih =>
    by_cases he : s.stepped.lastError = none
    · obtain ⟨k, hk⟩ := ih s.stepped
      exact ⟨k + 1, hk.succ he⟩
    · exact ⟨1, (runBatch_succ n s).trans (if_neg he), by omega, by omega, fun _ => ⟨Nat.one_pos, he⟩⟩

/-- A batch keeps the lifecycle state unless its last cycle fails, which makes it Empty (R226, R286). -/
theorem runBatch_lifecycle {n : Nat} {s t : State} (h : runBatch n s = .next t) :
    t.lifecycle = s.lifecycle ∨ (t.lifecycle = .empty ∧ t.lastError ≠ none) := by
  induction n generalizing s with
  | zero => cases h; exact .inl rfl
  | succ n ih =>
    have hstep := step_lifecycle (step_eq_stepped s)
    rw [runBatch_succ] at h
    by_cases he : s.stepped.lastError = none
    · rw [if_pos he] at h hstep
      rw [← hstep]
      exact ih h
    · rw [if_neg he] at h hstep
      cases h
      exact .inr ⟨hstep, he⟩

/-! ## The tick -/

theorem tick_of_running {s : State} (h : s.lifecycle = .running) :
    tick s = runBatch s.cyclesPerFrame s.decrementTimers := if_pos h

theorem tick_of_not_running {s : State} (h : s.lifecycle ≠ .running) : tick s = .next s := if_neg h

theorem decrementTimers_onlyChanges (s : State) :
    OnlyChanges (fun c => c = .delay ∨ c = .sound) s s.decrementTimers :=
  .trans ((setDelay_onlyChanges s _).mono fun _ => .inl) ((setSound_onlyChanges _ _).mono fun _ => .inr)

/-- Settles O52. -/
theorem tickDoesNothingUnlessRunning : Obligations.TickDoesNothingUnlessRunning := fun _ => tick_of_not_running

/-- Settles O53: the states are those of one step after another from the decrement of the timers on. -/
theorem tickDecrementsThenRunsBatch : Obligations.TickDecrementsThenRunsBatch := by
  intro s hrun
  obtain ⟨k, hk⟩ := exists_batchEndsAfter s.cyclesPerFrame s.decrementTimers
  refine ⟨fun j => State.stepped^[j] s.decrementTimers, k, (tick_of_running hrun).trans hk.answer, hk.le,
    timerDown_toNat s.dt, timerDown_toNat s.st, decrementTimers_onlyChanges s, fun j _ => ?_, hk.noError, hk.early⟩
  simp only [Function.iterate_succ_apply']
  exact step_eq_stepped _

/-- A tick always returns (R292). -/
theorem exists_tick_eq_next (s : State) : ∃ t, tick s = .next t := by
  by_cases hrun : s.lifecycle = .running
  · obtain ⟨k, hk⟩ := exists_batchEndsAfter s.cyclesPerFrame s.decrementTimers
    exact ⟨_, (tick_of_running hrun).trans hk.answer⟩
  · exact ⟨s, tick_of_not_running hrun⟩

/-- After a failed step the machine is Empty (R286, R292). -/
theorem step_lifecycle_of_error {s t : State} (h : step s = .next t) (he : t.lastError ≠ none) : t.lifecycle = .empty :=
  (step_lifecycle h).trans (if_neg he)

/-- Settles O8. That an error shows as Empty is kept by the decrement of the timers and made by every step, so it holds
after a tick too. -/
theorem stepAndTickAlwaysReturn : Obligations.StepAndTickAlwaysReturn := by
  intro s
  refine ⟨⟨s.stepped, step_eq_stepped s, fun he => congrArg Reply.state ?_⟩, ?_⟩
  · exact step_lifecycle_of_error (step_eq_stepped s) he
  · obtain ⟨t, ht⟩ := exists_tick_eq_next s
    refine ⟨t, ht, fun hs he => congrArg Reply.state ?_⟩
    exact tick_induction (P := fun u => u.lastError ≠ none → u.lifecycle = .empty) (fun _ hu => hu)
      (fun _ _ _ => step_lifecycle_of_error) (fun hne => absurd hs hne) ht he

/-! ## What steps and ticks cannot do -/

/-- A tick keeps the host's settings: the decrement of the timers does, and every step does (R227, R300). -/
theorem tick_same_of_isHostSetting {c : Component} (hc : c.isHostSetting) {s t : State} (h : tick s = .next t) :
    c.same s t := by
  have htimers : ¬ (c = .delay ∨ c = .sound) := by rcases hc with rfl | rfl | rfl | rfl <;> simp
  exact tick_induction (P := c.same s) (fun u hu => Component.same_trans hu (decrementTimers_onlyChanges u c htimers))
    (fun _ _ hu hstep => Component.same_trans hu (step_same_of_isHostSetting hc hstep)) (c.same_refl s) h

/-- A tick keeps the lifecycle state unless its last cycle fails (R226, R253). -/
theorem tick_lifecycle {s t : State} (h : tick s = .next t) :
    t.lifecycle = s.lifecycle ∨ (t.lifecycle = .empty ∧ t.lastError ≠ none) := by
  by_cases hrun : s.lifecycle = .running
  · rw [tick_of_running hrun] at h
    exact runBatch_lifecycle (s := s.decrementTimers) h
  · rw [tick_of_not_running hrun] at h
    cases h
    exact .inl rfl

/-- Settles O12: a step and a tick keep the settings, and an error is the one way to another lifecycle state. -/
theorem programsCannotWriteHostSettings : Obligations.ProgramsCannotWriteHostSettings := by
  rintro s t (h | h)
  · refine ⟨fun c hc => step_same_of_isHostSetting hc h, ?_⟩
    by_cases he : t.lastError = none
    · exact .inl ((step_lifecycle h).trans (if_pos he))
    · exact .inr ⟨step_lifecycle_of_error h he, he⟩
  · exact ⟨fun c hc => tick_same_of_isHostSetting hc h, tick_lifecycle h⟩

/-- A toggle and a tick do nothing in state Empty (R226, R244). -/
theorem command_of_empty {c : Command} (hc : c = .toggle ∨ c = .tick) {s : State} (hs : s.lifecycle = .empty) :
    command c s = .next s := by
  rcases hc with rfl | rfl
  · simp only [command, toggle, hs]
  · exact tick_of_not_running (by simp [hs])

/-- Settles O51, by induction over the sequence. -/
theorem togglesAndTicksCannotLeaveEmpty : Obligations.TogglesAndTicksCannotLeaveEmpty := by
  intro cs s hcs hs
  induction cs with
  | nil => rfl
  | cons c rest ih =>
    obtain ⟨hc, hrest⟩ := List.forall_mem_cons.mp hcs
    rw [runCommands, command_of_empty hc hs]
    exact ih hrest

end Sys2Proof.Machine
end

section
/-! What each host command writes, which ones are refused, and the lifecycle table (R242 to R247, R253). -/

namespace Sys2Proof.Machine

/-! ## The settings -/

theorem setShiftQuirkMode_onlyChanges (b : Bool) (s : State) :
    OnlyChanges (· = .shiftQuirk) s { s with shiftQuirk := b } := by
  intro c hc
  cases c with
  | shiftQuirk => exact absurd rfl hc
  | program | random => exact ⟨rfl, rfl⟩
  | _ => rfl

theorem setCyclesPerFrame_onlyChanges (n : Nat) (s : State) :
    OnlyChanges (· = .cyclesPerFrame) s { s with cyclesPerFrame := n } := by
  intro c hc
  cases c with
  | cyclesPerFrame => exact absurd rfl hc
  | program | random => exact ⟨rfl, rfl⟩
  | _ => rfl

/-- `set_key` with an index in range writes that latch (R245). -/
theorem setKey_of_le {k : Nat} (h : k ≤ 15) (b : Bool) (s : State) :
    command (.setKey k b) s = .next (s.setKey (BitVec.ofNat 4 k) b) := if_pos (Nat.lt_succ_of_le h)

/-- Setting `cycles_per_frame` to a value in range writes it (R247). -/
theorem setCyclesPerFrame_of_nonneg {n : Int} (h : 0 ≤ n) (s : State) :
    command (.setCyclesPerFrame n) s = .next { s with cyclesPerFrame := n.toNat } := if_pos h

/-- Settles O47. -/
theorem settingsWriteOnlyWhatTheyName : Obligations.SettingsWriteOnlyWhatTheyName := by
  refine fun s => ⟨fun k b => ?_, fun b => ?_, fun n => ?_⟩
  · have hkey : command (.setKey k.toNat b) s = .next (s.setKey k b) := by
      rw [setKey_of_le (Nat.le_of_lt_succ k.isLt), BitVec.ofNat_toNat, BitVec.setWidth_eq]
    exact ⟨_, hkey, by rw [State.key_setKey, if_pos rfl], setKey_onlyChanges s k b⟩
  · exact ⟨_, rfl, rfl, setShiftQuirkMode_onlyChanges b s⟩
  · exact ⟨_, setCyclesPerFrame_of_nonneg n.cast_nonneg s, rfl, setCyclesPerFrame_onlyChanges n s⟩

/-! ## The toggle -/

/-- The lifecycle state a toggle leads to (R244). -/
def Lifecycle.toggled : Lifecycle → Lifecycle
  | .empty => .empty
  | .reset => .running
  | .running => .paused
  | .paused => .running

/-- A toggle moves the lifecycle state and from Reset clears the display; the other writes put back what was there
(R244). -/
theorem toggle_eq (s : State) : toggle s =
    .next ((s.setDisp (if s.lifecycle = .reset then clearedDisplay else s.disp)).setLifecycle s.lifecycle.toggled) := by
  cases hl : s.lifecycle <;> simp only [toggle, hl, Lifecycle.toggled, reduceCtorEq, if_true, if_false]
  case empty => rw [← hl]; rfl
  case running | paused => rfl

theorem setLifecycle_onlyChanges (s : State) (l : Lifecycle) : OnlyChanges (· = .lifecycle) s (s.setLifecycle l) := by
  intro c hc
  cases c <;> simp_all [Component.same]

/-- Settles O50: the frame is that of the two writes, and the write of the display counts from Reset only. -/
theorem toggleClearsDisplayOnlyFromReset : Obligations.ToggleClearsDisplayOnlyFromReset := by
  refine fun s => ⟨_, toggle_eq s, ?_, fun hreset px py => ?_⟩
  · refine OnlyChanges.trans ?_ ((setLifecycle_onlyChanges _ _).mono fun _ => .inl)
    by_cases hreset : s.lifecycle = .reset
    · exact (setDisp_onlyChanges s _).mono fun _ hdisplay => .inr ⟨hreset, hdisplay⟩
    · rw [if_neg hreset]
      exact OnlyChanges.refl _ s
  · rw [if_pos hreset]
    exact pixel_clearedDisplay px py

/-! ## Refused commands -/

/-- Settles O46: the three commands with a range answer by their one check, the others always with a next state. -/
theorem onlyOutOfRangeCommandsAreRefused : Obligations.OnlyOutOfRangeCommandsAreRefused := by
  intro c s
  cases c with
  | load bytes =>
    dsimp only
    split_ifs with hsize
    · exact ⟨_, load_eq_next.mpr ⟨hsize, rfl⟩⟩
    · exact if_neg hsize
  | resetToStart => exact ⟨_, rfl⟩
  | toggle => exact ⟨_, toggle_eq s⟩
  | step => exact ⟨_, step_eq_stepped s⟩
  | tick => exact exists_tick_eq_next s
  | setKey k b =>
    dsimp only
    split_ifs with hindex
    · exact ⟨_, setKey_of_le hindex b s⟩
    · exact if_neg fun h => hindex (Nat.le_of_lt_succ h)
  | setShiftQuirkMode b => exact ⟨_, rfl⟩
  | setCyclesPerFrame n =>
    dsimp only
    split_ifs with hspeed
    · exact ⟨_, setCyclesPerFrame_of_nonneg hspeed s⟩
    · exact if_neg hspeed

/-! ## The lifecycle table -/

/-- After a tick that recorded an error the machine is Empty (R226, R286). -/
theorem tick_lifecycle_of_error {s t : State} (h : tick s = .next t) (hs : s.lastError = none)
    (he : t.lastError ≠ none) : t.lifecycle = .empty := by
  obtain ⟨-, u, hu, hempty⟩ := stepAndTickAlwaysReturn s
  cases h.symm.trans hu
  exact Reply.state.inj (hempty hs he)

/-- A tick in state Running ends in Running, or in Empty when its last cycle failed (R226, R253). -/
theorem tick_lifecycle_of_running {s t : State} (h : tick s = .next t) (hrun : s.lifecycle = .running)
    (hs : s.lastError = none) : t.lifecycle = if t.lastError = none then .running else .empty := by
  split_ifs with he
  · rcases tick_lifecycle h with hkeep | ⟨-, herror⟩
    · exact hkeep.trans hrun
    · exact absurd he herror
  · exact tick_lifecycle_of_error h hs he

/-- Settles O49, command by command. -/
theorem lifecycleFollowsTheTable : Obligations.LifecycleFollowsTheTable := by
  intro c s t h
  cases c with
  | load bytes =>
    obtain ⟨-, rfl⟩ := load_eq_next.mp h
    rfl
  | resetToStart =>
    cases h
    exact apply_ite State.lifecycle _ _ _
  | toggle =>
    cases h.symm.trans (toggle_eq s)
    rfl
  | step => exact step_lifecycle h
  | tick =>
    dsimp only
    by_cases hrun : s.lifecycle = .running
    · rw [if_pos hrun]
      exact tick_lifecycle_of_running h hrun
    · rw [if_neg hrun]
      cases h.symm.trans (tick_of_not_running hrun)
      rfl
  | setKey k b =>
    cases setKey_next h
    rfl
  | setShiftQuirkMode b =>
    cases h
    rfl
  | setCyclesPerFrame n =>
    cases setCyclesPerFrame_next h
    rfl

end Sys2Proof.Machine
end

section
/-! Which error a cycle ends with, and what a failing cycle leaves (spec/60_exceptions.md, R280, R281, R286 to R289). -/

namespace Sys2Proof.Machine

/-! ## The one check of a handler -/

/-- The error an instruction's handler raises, by R280's table: the one check of the six instructions that can fail
(R289). -/
def handlerError (i : Instr) (s : State) : Option ErrorKind :=
  match i with
  | .ret => if s.sp = 0 then some .stackUnderflow else none
  | .call _ => if Config.stackDepth ≤ s.sp then some .stackOverflow else none
  | .drw _ _ n => if 4096 ≤ s.i.toNat + n.toNat then some .memoryOutOfRange else none
  | .ldBVx _ => if 4096 ≤ s.i.toNat + 2 then some .memoryOutOfRange else none
  | .ldMemVx x | .ldVxMem x => if 4096 ≤ s.i.toNat + x.toNat then some .memoryOutOfRange else none
  | _ => none

/-- A checked operation records its error exactly when its check fails, if going on records none. -/
theorem orRaise_lastError {α : Type} {e : ErrorKind} {s t : State} {o : Option α} {k : α → Result}
    {c : Prop} [Decidable c] (h : orRaise e s o k = .next t) (hcheck : o = none ↔ c)
    (hgoOn : ∀ a, o = some a → k a = .next t → t.lastError = none) :
    t.lastError = if c then some e else none := by
  rcases orRaise_cases h with ⟨a, ha, hk⟩ | ⟨hnone, hraise⟩
  · rw [if_neg fun hc => Option.some_ne_none a (ha.symm.trans (hcheck.mpr hc))]
    exact hgoOn a ha hk
  · cases hraise
    exact (if_pos (hcheck.mp hnone)).symm

@[simp] theorem errorEntry_lastError (e : ErrorKind) (s : State) : (errorEntry e s).lastError = some e := rfl

/-- A block store records no error of its own. -/
theorem storeBlock_lastError {s t : State} {a : Nat} {bs : List Byte} (h : s.storeBlock a bs = some t) :
    t.lastError = s.lastError := by
  obtain ⟨-, rfl⟩ := State.storeBlock_eq_some.mp h
  rfl

/-- The ghost after an instruction is the error of its handler's check (R280, R281). -/
theorem exec_lastError {i : Instr} {s t : State} (hs : s.lastError = none) (h : exec i s = .next t) :
    t.lastError = handlerError i s := by
  cases i with
  | ret =>
    refine orRaise_lastError h (pop_eq_none.trans List.length_eq_zero_iff.symm) fun ⟨a, u⟩ hpop hk => ?_
    obtain ⟨l, -, rfl⟩ := pop_eq_some.mp hpop
    cases hk
    exact hs
  | call nnn =>
    refine orRaise_lastError h push_eq_none fun u hpush hk => ?_
    obtain ⟨-, rfl⟩ := push_eq_some.mp hpush
    cases hk
    exact hs
  | drw x y n =>
    refine orRaise_lastError h (State.loadBlock_eq_none.trans Nat.lt_succ_iff) fun sprite _ hk => ?_
    cases hk
    exact hs
  | ldBVx x =>
    refine orRaise_lastError h (State.storeBlock_eq_none.trans Nat.lt_succ_iff) fun u hstore hk => ?_
    cases hk
    exact (storeBlock_lastError hstore).trans hs
  | ldMemVx x =>
    refine orRaise_lastError h (State.storeBlock_eq_none.trans ?_) fun u hstore hk => ?_
    · rw [State.regsUpTo_length]
      exact Nat.lt_succ_iff
    · cases hk
      exact (storeBlock_lastError hstore).trans hs
  | ldVxMem x =>
    refine orRaise_lastError h (State.loadBlock_eq_none.trans Nat.lt_succ_iff) fun bs _ hk => ?_
    cases hk
    exact hs
  | seImm | sneImm | seReg | sneReg | skp | sknp =>
    cases h
    exact (skipIf_onlyChanges _ _ .lastError (by simp)).trans hs
  | ldVxK x => rcases ldVxK_cases h with ⟨k, -, rfl⟩ | ⟨-, rfl⟩ <;> exact hs
  | _ => cases h; exact hs

/-! ## The rows of the table, read by error kind -/

theorem handlerError_ne_invalidOpcode (i : Instr) (s : State) : handlerError i s ≠ some .invalidOpcode := by
  cases i <;> simp [handlerError, -State.sp_eq]

theorem handlerError_eq_stackUnderflow_iff (i : Instr) (s : State) :
    handlerError i s = some .stackUnderflow ↔ i = .ret ∧ s.sp = 0 := by
  cases i <;> simp [handlerError, -State.sp_eq]

theorem handlerError_eq_stackOverflow_iff (i : Instr) (s : State) :
    handlerError i s = some .stackOverflow ↔ (∃ nnn, i = .call nnn) ∧ Config.stackDepth ≤ s.sp := by
  cases i <;> simp [handlerError, -State.sp_eq]

theorem handlerError_eq_memoryOutOfRange_iff (i : Instr) (s : State) :
    handlerError i s = some .memoryOutOfRange ↔
      (∃ x y n, i = .drw x y n ∧ 4096 ≤ s.i.toNat + n.toNat) ∨
      (∃ x, i = .ldBVx x ∧ 4096 ≤ s.i.toNat + 2) ∨
      (∃ x, i = .ldMemVx x ∧ 4096 ≤ s.i.toNat + x.toNat) ∨
      (∃ x, i = .ldVxMem x ∧ 4096 ≤ s.i.toNat + x.toNat) := by
  cases i <;> simp [handlerError, -State.sp_eq]

/-! ## The cycle -/

/-- The legal words are those that decode (R94, R98). -/
theorem legalWord_iff_exists_decode {w : Word} : legalWord w = true ↔ ∃ i, decode w = .ok i := by
  refine ⟨decode_eq_ok_of_legal, fun ⟨i, hi⟩ => ?_⟩
  by_contra hillegal
  rw [decode_eq_error_of_illegal (Bool.eq_false_of_not_eq_true hillegal)] at hi
  cases hi

/-- Settles O9, by the three cases of a step: the fetch and the decoder raise one error each, a handler that of its row. -/
theorem errorKindsAreExactlyTheTable : Obligations.ErrorKindsAreExactlyTheTable := by
  intro s t h
  rcases step_cases s with ⟨hpc, hstep⟩ | ⟨hpc, ⟨e, he⟩, hstep⟩ | ⟨hpc, i, hi, hstep⟩ <;> rw [hstep] at h
  · cases h
    have hfetch : ¬ s.pc.toNat ≤ 4094 := by omega
    simp [hpc, hfetch]
  · cases h
    have hfetch : ¬ 4095 ≤ s.pc.toNat := by omega
    have hillegal : legalWord s.nextWord = false := by simp [← Bool.not_eq_true, legalWord_iff_exists_decode, he]
    simp [hpc, hfetch, he, hillegal]
  · have hfetch : ¬ 4095 ≤ s.pc.toNat := by omega
    have hlegal : legalWord s.nextWord = true := legalWord_iff_exists_decode.mpr ⟨i, hi⟩
    have herror : t.lastError = handlerError i s := exec_lastError (s := s.beginCycle.advance) rfl h
    simp only [herror, hpc, hfetch, hi, hlegal, Except.ok.injEq, true_and, false_or]
    exact ⟨by simp [handlerError_ne_invalidOpcode], handlerError_eq_stackUnderflow_iff i s,
      handlerError_eq_stackOverflow_iff i s, handlerError_eq_memoryOutOfRange_iff i s⟩

/-- A failing cycle is error entry alone, from the state at its start or, once the word was fetched, with `PC` advanced
(R222, R286, R287). -/
theorem step_eq_errorEntry {s t : State} {e : ErrorKind} (h : step s = .next t) (he : t.lastError = some e) :
    t = errorEntry e (if 4095 ≤ s.pc.toNat then s else s.advance) := by
  rcases step_cases s with ⟨hpc, hstep⟩ | ⟨hpc, -, hstep⟩ | ⟨hpc, i, -, hstep⟩ <;> rw [hstep] at h
  · cases h
    cases he
    rw [if_pos hpc]
    rfl
  · cases h
    cases he
    rw [if_neg (by omega)]
    rfl
  · rw [if_neg (by omega)]
    rcases exec_cases h with ⟨e', rfl⟩ | ⟨hframe, -⟩
    · cases he
      rfl
    · rw [show t.lastError = none from hframe .lastError (not_mayWrite (.inr (.inr rfl)))] at he
      cases he

/-- Settles O10: error entry keeps the `PC` it finds, and changes what R286 lists. -/
theorem errorsArePrecise : Obligations.ErrorsArePrecise := by
  intro s t e h he
  rw [step_eq_errorEntry h he]
  split_ifs
  · exact ⟨rfl, errorEntry_taken e s⟩
  · exact ⟨rfl, errorEntry_taken e s.advance⟩

end Sys2Proof.Machine
end
